-- ==== Sys2Proof/Word.lean ====
section
/-! DEFINITION. The two widths of the machine (00_scope R9). -/

namespace Sys2Proof

/-- `u8` (00_scope R9): a data value, a register of native width 8, one memory cell. -/
abbrev Byte := BitVec 8

/-- `u16` (00_scope R9): an instruction word, an address, a value on a register-file port. -/
abbrev Word := BitVec 16

end Sys2Proof
end

