-- ==== Sys2Proof/Config.lean ====
section
/-! DEFINITION. What an implementation or a launch fixes (00_scope R7), and the one free value of the model. -/

namespace Sys2Proof

namespace Config

/-- `MEM_SIZE` (00_scope R7): the main space has this many bytes. -/
def memSize : Nat := 65536

/-- `STACK_BASE` (00_scope R7, decision D2; log 10). -/
def stackBase : Nat := 0x0000

/-- `STACK_SIZE` (00_scope R7, decision D2; log 10). -/
def stackSize : Nat := 0x0100

/-- `CODE_BASE` (00_scope R7, decision D3; log 10). -/
def codeBase : Nat := 0x0100

/-- The bound on `PROG_END` (00_scope R7, decision D25). -/
def progEndMax : Nat := 0xFFFE

/-- `LDST_REG` (00_scope R7, decision D16; log 10): the number of the register LD and ST use. -/
def ldstReg : Fin 8 := 0

/-- `INDEX_REG_CODE` (00_scope R7, decision D11; log 10): the register code of I. -/
def indexRegCode : BitVec 4 := 0xC#4

/-- `ENC_GLOBAL` (30_encoding R81, decision D17; log 10): the group of GLD and GST. -/
def encGlobal : BitVec 4 := 0xA#4

/-- `ENC_SYS` (30_encoding R81, decision D18; log 10): the group of PUTC. -/
def encSys : BitVec 4 := 0xB#4

/-- FREE VALUE (DESIGN CHOICE, log 5). What an Rng region answers: the `n`-th byte drawn from a generator given
this seed, "any byte, under no law beyond being a u8" (20_memory R46). It has no body, so no proof can know it. -/
opaque rngByte (seed : Byte) (n : Nat) : Byte

end Config

/-- The closed set of region kinds (20_memory R39). Plain memory is the absence of a region. -/
inductive RegionKind where
  | frameBuffer
  | console
  | storage
  | rng
  | keyboard
deriving DecidableEq, Repr

/-- One entry `(kind, begin, end)` of `REGION_MAP`: the half-open range from `start` up to but without `stop`
(20_memory R38). -/
structure Region where
  kind : RegionKind
  start : Nat
  stop : Nat
deriving DecidableEq, Repr

/-- The parameters that stay as they are while an instance runs (00_scope R7, 10_state R13). -/
structure Params where
  /-- `PROG_LEN`, in bytes. -/
  progLen : Nat
  /-- `REGION_MAP`, OPEN. -/
  regionMap : List Region
  /-- `FB_BYTES_PER_ROW`, OPEN: any number, 0 among them (DESIGN CHOICE, log 18). -/
  fbBytesPerRow : Nat
  /-- `MAILBOX_SIZE`, bytes per mailbox. -/
  mailboxSize : Nat
  /-- `NUM_AGENTS`, the number of mailboxes. -/
  numAgents : Nat
deriving DecidableEq, Repr

/-- `PROG_END` (00_scope R7): the address after the program's last byte. -/
def Params.progEnd (p : Params) : Nat := Config.codeBase + p.progLen

/-- `ROLE` (00_scope R7, 10_state R29). -/
inductive Role where
  | agent (id : Byte)
  | arbiter
deriving DecidableEq, Repr

end Sys2Proof
end

