-- ==== Sys2Proof/Syntax.lean ====
section
/-! DEFINITION. Register operands and the eighteen instructions (30_encoding R79). -/

namespace Sys2Proof

/-- A register operand (10_state R14). Only the twelve defined codes have a term here: codes 0x8 to 0xB are turned
away by the decoder, so "register identity is validated at decode time" (10_state R18). -/
inductive Reg where
  /-- R0 to R7. -/
  | gpr (n : Fin 8)
  /-- The index register. -/
  | i
  /-- The stack pointer. -/
  | sp
  /-- The program counter. -/
  | pc
  /-- The flag register. -/
  | f
deriving DecidableEq, Repr

/-- One constructor per row of the opcode map (30_encoding R79). Field names are the map's. -/
inductive Instr where
  | nop
  | halt (code8 : Byte)
  | mov (d s : Reg)
  | add (d s : Reg)
  | sub (d s : Reg)
  | ldi (d : Reg) (imm8 : Byte)
  | jmp (addr12 : BitVec 12)
  | jz (addr12 : BitVec 12)
  | jnz (addr12 : BitVec 12)
  | call (addr12 : BitVec 12)
  | ret
  | push (r : Reg)
  | pop (r : Reg)
  | ld (addr12 : BitVec 12)
  | st (addr12 : BitVec 12)
  | gld (v a : Reg)
  | gst (v a : Reg)
  | putc (r : Reg)
deriving DecidableEq, Repr

end Sys2Proof
end

