-- ==== Sys2Proof/WellFormed.lean ====
section
/-! DEFINITION. What must hold before a word is an instruction and before an instance exists.
Every term of `Instr` is well formed by its type (its registers are defined codes, its immediates have their widths),
so the checks of the encoding are checks of WORDS: the opcode map as masks and matches (30_encoding R79), the defined
register codes (R74) and the filler bits (R75, inside the masks). The checks of a launch are those of 20_memory R38,
00_scope R7 and 60_exceptions R128. -/

namespace Sys2Proof

/-- The twelve defined register codes (30_encoding R74). -/
def validRegCode (c : BitVec 4) : Bool :=
  c ∈ [0x0#4, 0x1#4, 0x2#4, 0x3#4, 0x4#4, 0x5#4, 0x6#4, 0x7#4, 0xC#4, 0xD#4, 0xE#4, 0xF#4]

/-- One row of the opcode map: its mnemonic, its `match` and `mask`, and the lowest bit of each register field. -/
structure OpcodeRow where
  mnemonic : String
  bits : Word
  mask : Word
  regFields : List Nat
deriving DecidableEq, Repr

/-- The opcode map (30_encoding R79), row by row. -/
def opcodeTable : List OpcodeRow :=
  [ ⟨"NOP",  0x0000#16, 0xFFFF#16, []⟩,
    ⟨"HALT", 0x0100#16, 0xFF00#16, []⟩,
    ⟨"MOV",  0x1000#16, 0xFF00#16, [4, 0]⟩,
    ⟨"ADD",  0x1100#16, 0xFF00#16, [4, 0]⟩,
    ⟨"SUB",  0x1200#16, 0xFF00#16, [4, 0]⟩,
    ⟨"LDI",  0x2000#16, 0xF000#16, [8]⟩,
    ⟨"JMP",  0x3000#16, 0xF000#16, []⟩,
    ⟨"JZ",   0x4000#16, 0xF000#16, []⟩,
    ⟨"JNZ",  0x5000#16, 0xF000#16, []⟩,
    ⟨"CALL", 0x6000#16, 0xF000#16, []⟩,
    ⟨"RET",  0x7000#16, 0xFFFF#16, []⟩,
    ⟨"PUSH", 0x7100#16, 0xFF0F#16, [4]⟩,
    ⟨"POP",  0x7200#16, 0xFF0F#16, [4]⟩,
    ⟨"LD",   0x8000#16, 0xF000#16, []⟩,
    ⟨"ST",   0x9000#16, 0xF000#16, []⟩,
    ⟨"GLD",  0xA000#16, 0xFF00#16, [4, 0]⟩,
    ⟨"GST",  0xA100#16, 0xFF00#16, [4, 0]⟩,
    ⟨"PUTC", 0xB000#16, 0xFF0F#16, [4]⟩ ]

/-- "a word selects the row iff `w & mask == match`, and every register field of the row is valid" (30_encoding R79). -/
def OpcodeRow.selects (row : OpcodeRow) (w : Word) : Bool :=
  w &&& row.mask == row.bits && row.regFields.all fun k => validRegCode (w.extractLsb' k 4)

/-- A word is well formed when some row of the opcode map selects it. -/
def wellFormedWord (w : Word) : Bool := opcodeTable.any fun row => row.selects w

/-- The row of the opcode map an instruction stands in (30_encoding R79), by its mnemonic. -/
def Instr.mnemonic : Instr → String
  | .nop => "NOP"
  | .halt _ => "HALT"
  | .mov _ _ => "MOV"
  | .add _ _ => "ADD"
  | .sub _ _ => "SUB"
  | .ldi _ _ => "LDI"
  | .jmp _ => "JMP"
  | .jz _ => "JZ"
  | .jnz _ => "JNZ"
  | .call _ => "CALL"
  | .ret => "RET"
  | .push _ => "PUSH"
  | .pop _ => "POP"
  | .ld _ => "LD"
  | .st _ => "ST"
  | .gld _ _ => "GLD"
  | .gst _ _ => "GST"
  | .putc _ => "PUTC"

/-- A range of addresses shares none with the half-open range from `lo` up to `hi`. -/
def Region.apartFrom (r : Region) (lo hi : Nat) : Bool := r.stop ≤ lo || hi ≤ r.start

/-- 20_memory R38, constraint 1. -/
def Region.inSpace (r : Region) : Bool := r.start < r.stop && r.stop ≤ Config.memSize

/-- 20_memory R38, constraint 2: no two entries overlap. -/
def regionsApart : List Region → Bool
  | [] => true
  | r :: rs => rs.all (fun q => q.apartFrom r.start r.stop) && regionsApart rs

/-- 20_memory R38, the whole of it (constraints 4 and 5 hold by type). -/
def Params.regionMapOk (p : Params) : Bool :=
  p.regionMap.all (fun r => r.inSpace) && regionsApart p.regionMap &&
  p.regionMap.all (fun r => r.apartFrom Config.stackBase (Config.stackBase + Config.stackSize)) &&
  p.regionMap.all (fun r => r.apartFrom Config.codeBase p.progEnd)

/-- `CODE_BASE + PROG_LEN <= 0xFFFE` (00_scope R7, decision D25). -/
def Params.programFits (p : Params) : Bool := p.progEnd ≤ Config.progEndMax

/-- `MAILBOX_SIZE` is 1 to 65536 and `NUM_AGENTS` 1 to 256 (00_scope R7, decision D20). -/
def Params.mailboxesOk (p : Params) : Bool :=
  1 ≤ p.mailboxSize && p.mailboxSize ≤ 65536 && 1 ≤ p.numAgents && p.numAgents ≤ 256

/-- Every constraint the spec puts on the parameters of an instance. -/
def Params.wf (p : Params) : Bool := p.regionMapOk && p.programFits && p.mailboxesOk

/-- An agent's id is below `NUM_AGENTS` (00_scope R7, 60_exceptions R128). -/
def Role.fits (role : Role) (p : Params) : Bool :=
  match role with
  | .agent id => id.toNat < p.numAgents
  | .arbiter => true

end Sys2Proof
end

