-- ==== Sys2Proof/Decode.lean ====
section
/-! DEFINITION. The decoder as a total function (30_encoding R76), its rejections by name (R80), the encoder (R78),
the byte order of a word (20_memory R49), and the host's question `decodeTableWord`. -/

namespace Sys2Proof

/-- The byte at the lower address is bits 15:8 (20_memory R49, decision D1). -/
def wordOfBytes (hi lo : Byte) : Word := hi ++ lo

/-- Bits 15:8, stored at the lower address (20_memory R49). -/
def hiByte (w : Word) : Byte := w.extractLsb' 8 8

/-- Bits 7:0, stored at the higher address (20_memory R49). -/
def loByte (w : Word) : Byte := w.extractLsb' 0 8

/-- Why a word does not decode: the classes of 30_encoding R80. The machine records the word alone (40_cycle R89);
which class a word with several defects is put in is the model's (DESIGN CHOICE, log 11, not observable). -/
inductive DecodeReject where
  /-- Groups 0xC to 0xF. -/
  | unknownGroup
  /-- A sub-selector the group does not have. -/
  | unknownSubSelector
  /-- A register field that holds 0x8 to 0xB. -/
  | invalidRegister
  /-- A filler bit that is not 0 (30_encoding R75). -/
  | nonzeroFiller
deriving DecidableEq, Repr

/-- The register of a 4-bit code, or none for 0x8 to 0xB (10_state R14, 30_encoding R74). -/
def Reg.ofCode (c : BitVec 4) : Option Reg :=
  if h : c.toNat < 8 then some (.gpr ⟨c.toNat, h⟩)
  else if c = Config.indexRegCode then some .i
  else if c = 0xD#4 then some .sp
  else if c = 0xE#4 then some .pc
  else if c = 0xF#4 then some .f
  else none

/-- The 4-bit code of a register (10_state R14). -/
def Reg.code : Reg → BitVec 4
  | .gpr n => BitVec.ofNat 4 n.val
  | .i => Config.indexRegCode
  | .sp => 0xD#4
  | .pc => 0xE#4
  | .f => 0xF#4

/-- Format RR: two register fields (30_encoding R71). -/
def decodeRR (make : Reg → Reg → Instr) (hi lo : BitVec 4) : Except DecodeReject Instr :=
  match Reg.ofCode hi, Reg.ofCode lo with
  | some d, some r => .ok (make d r)
  | _, _ => .error .invalidRegister

/-- Format R: one register field, and bits 3:0 are filler (30_encoding R71, R75). -/
def decodeR (make : Reg → Instr) (hi lo : BitVec 4) : Except DecodeReject Instr :=
  if lo = 0x0#4 then
    match Reg.ofCode hi with
    | some r => .ok (make r)
    | none => .error .invalidRegister
  else .error .nonzeroFiller

/-- Format RI: a register in bits 11:8 and an immediate (30_encoding R71). -/
def decodeRI (make : Reg → Byte → Instr) (s : BitVec 4) (imm8 : Byte) : Except DecodeReject Instr :=
  match Reg.ofCode s with
  | some d => .ok (make d imm8)
  | none => .error .invalidRegister

/-- Format Z: bits 7:0 are filler (30_encoding R71, R75). -/
def decodeZ (i : Instr) (filler : Byte) : Except DecodeReject Instr :=
  if filler = 0x00#8 then .ok i else .error .nonzeroFiller

/-- `decode` (30_encoding R76): total, pure, without state. -/
def decode (w : Word) : Except DecodeReject Instr :=
  let g := w.extractLsb' 12 4
  let s := w.extractLsb' 8 4
  let hi := w.extractLsb' 4 4
  let lo := w.extractLsb' 0 4
  let low8 := w.extractLsb' 0 8
  let addr12 := w.extractLsb' 0 12
  if g = 0x0#4 then
    if s = 0x0#4 then decodeZ .nop low8
    else if s = 0x1#4 then .ok (.halt low8)
    else .error .unknownSubSelector
  else if g = 0x1#4 then
    if s = 0x0#4 then decodeRR .mov hi lo
    else if s = 0x1#4 then decodeRR .add hi lo
    else if s = 0x2#4 then decodeRR .sub hi lo
    else .error .unknownSubSelector
  else if g = 0x2#4 then decodeRI .ldi s low8
  else if g = 0x3#4 then .ok (.jmp addr12)
  else if g = 0x4#4 then .ok (.jz addr12)
  else if g = 0x5#4 then .ok (.jnz addr12)
  else if g = 0x6#4 then .ok (.call addr12)
  else if g = 0x7#4 then
    if s = 0x0#4 then decodeZ .ret low8
    else if s = 0x1#4 then decodeR .push hi lo
    else if s = 0x2#4 then decodeR .pop hi lo
    else .error .unknownSubSelector
  else if g = 0x8#4 then .ok (.ld addr12)
  else if g = 0x9#4 then .ok (.st addr12)
  else if g = Config.encGlobal then
    if s = 0x0#4 then decodeRR .gld hi lo
    else if s = 0x1#4 then decodeRR .gst hi lo
    else .error .unknownSubSelector
  else if g = Config.encSys then
    if s = 0x0#4 then decodeR .putc hi lo
    else .error .unknownSubSelector
  else .error .unknownGroup

/-- Format RR: group, sub-selector, two register codes (30_encoding R71). -/
def encodeRR (g s : BitVec 4) (d r : Reg) : Word := g ++ s ++ d.code ++ r.code

/-- Format R: group, sub-selector, one register code, zeros (30_encoding R71). -/
def encodeR (g s : BitVec 4) (r : Reg) : Word := g ++ s ++ r.code ++ 0x0#4

/-- Format A: group and a 12-bit address (30_encoding R71). -/
def encodeA (g : BitVec 4) (addr12 : BitVec 12) : Word := g ++ addr12

/-- `encode` (30_encoding R78): every field at its position in R71, every filler bit 0. -/
def encode : Instr → Word
  | .nop => 0x0000#16
  | .halt code8 => 0x01#8 ++ code8
  | .mov d s => encodeRR 0x1#4 0x0#4 d s
  | .add d s => encodeRR 0x1#4 0x1#4 d s
  | .sub d s => encodeRR 0x1#4 0x2#4 d s
  | .ldi d imm8 => 0x2#4 ++ d.code ++ imm8
  | .jmp addr12 => encodeA 0x3#4 addr12
  | .jz addr12 => encodeA 0x4#4 addr12
  | .jnz addr12 => encodeA 0x5#4 addr12
  | .call addr12 => encodeA 0x6#4 addr12
  | .ret => 0x7000#16
  | .push r => encodeR 0x7#4 0x1#4 r
  | .pop r => encodeR 0x7#4 0x2#4 r
  | .ld addr12 => encodeA 0x8#4 addr12
  | .st addr12 => encodeA 0x9#4 addr12
  | .gld v a => encodeRR Config.encGlobal 0x0#4 v a
  | .gst v a => encodeRR Config.encGlobal 0x1#4 v a
  | .putc r => encodeR Config.encSys 0x0#4 r

/-- What stands at the front of a sequence of bytes. -/
inductive StreamDecode where
  /-- No byte is left. -/
  | empty
  /-- One trailing byte is left, half a word (40_cycle R88). -/
  | partialWord (b : Byte)
  /-- A word that does not decode, and why. -/
  | rejected (w : Word) (why : DecodeReject)
  /-- An instruction, and the bytes after it. -/
  | instr (i : Instr) (rest : List Byte)
deriving DecidableEq, Repr

/-- Decoding of any bytes: two bytes make a word, the first the high one (20_memory R49). -/
def decodeBytes : List Byte → StreamDecode
  | [] => .empty
  | [b] => .partialWord b
  | hi :: lo :: rest =>
    match decode (wordOfBytes hi lo) with
    | .ok i => .instr i rest
    | .error why => .rejected (wordOfBytes hi lo) why

/-- The word the host names by its bits: every bit at `nbits` and above is 0. -/
def tableWord (nbits w : Nat) : Word := BitVec.ofNat 16 (w % 2 ^ nbits)

/-- The host's question: the instruction read from the word whose bits are `w`, laid out as the hardware stores it,
the high byte first. -/
def decodeTableWord (nbits w : Nat) : Option Instr :=
  match decodeBytes [hiByte (tableWord nbits w), loByte (tableWord nbits w)] with
  | .instr i _ => some i
  | .empty => none
  | .partialWord _ => none
  | .rejected _ _ => none

end Sys2Proof
end

