-- ==== Sys2Proof/Machine/State.lean ====
section
/-! DEFINITION. Everything the spec gives one instance (10_state R13), the device state and mailbox store it reaches
(R32), and the launch parameters (00_scope R7); the reasons it halts; the state after reset. -/

namespace Sys2Proof.Machine

/-- What a DecodeError records (60_exceptions R123). -/
inductive DecodeInfo where
  /-- The fetched word (40_cycle R89). -/
  | word (w : Word)
  /-- The single byte at `PROG_END - 1` (40_cycle R88). -/
  | partialByte (b : Byte)
deriving DecidableEq, Repr

/-- What an AddressFault records, "tagged with which" (60_exceptions R123). -/
inductive AddressInfo where
  /-- The address `pc0` of a fetch (40_cycle R86). -/
  | fetch (pc0 : Word)
  /-- A mailbox id that no mailbox has (45_global R115). -/
  | mailbox (m : Byte)
  /-- An offset past the mailbox's end (45_global R118). -/
  | mailboxOffset (o : Word)
  /-- The first address of a two-byte access that would pass 0xFFFF (20_memory R52). No instruction makes one; the
  tag is the model's (DESIGN CHOICE, log 9). -/
  | access (a : Word)
deriving DecidableEq, Repr

/-- `halt_reason` (10_state R28, 60_exceptions R123). -/
inductive HaltReason where
  /-- Code 0: running. -/
  | none
  /-- Code 1: the HALT instruction, with its code. -/
  | halt (code8 : Byte)
  /-- Code 2. -/
  | decodeError (info : DecodeInfo)
  /-- Code 3. -/
  | addressFault (info : AddressInfo)
  /-- Code 4. -/
  | stackOverflow
  /-- Code 5. -/
  | stackUnderflow
deriving DecidableEq, Repr

/-- One instance, as plain data. INVENTORY.md lists each field with its rule and its reset value. -/
structure State where
  /-- R0 to R7 (10_state R15). -/
  gpr : Vector Byte 8
  /-- I (10_state R25). -/
  i : Word
  /-- SP, the number of bytes in use on the stack (10_state R21). -/
  sp : Byte
  /-- PC (10_state R20). -/
  pc : Word
  /-- F (10_state R22). -/
  f : Byte
  /-- `halted` (10_state R27). -/
  halted : Bool
  /-- `halt_reason` (10_state R28). -/
  haltReason : HaltReason
  /-- `role` (10_state R29). -/
  role : Role
  /-- `mem`, the backing array of the main space (10_state R30). -/
  mem : Memory
  /-- `console`, oldest byte first (10_state R31). -/
  console : List Byte
  /-- The shared mailbox store as this instance reaches it (20_memory R64); keys are `mailboxKey`. -/
  mailboxes : Memory
  /-- The seed of the RNG generator (10_state R32, R33). -/
  rngSeed : Byte
  /-- How many bytes were drawn from the generator: the model's own counter (log 5). -/
  rngDraws : Nat
  /-- The keyboard latch, by address (20_memory R47). -/
  keyLatch : Memory
  /-- The launch parameters (00_scope R7). -/
  params : Params
deriving DecidableEq, Repr

/-- A step of this machine never stops with a host-level fault: every fault of the spec halts the instance, and a
halted instance is a state (40_cycle R90, 60_exceptions R125). So there is no constructor, and nothing raises one. -/
inductive Fault where
deriving DecidableEq, Repr

/-- Why an instruction has no meaning here. -/
inductive Refusal where
  /-- Raised by an arm of `exec` whose instruction is not modelled. No arm raises it. Safe. -/
  | notModelled (mnemonic : String)
deriving DecidableEq, Repr

/-- What a step answers. -/
abbrev Result := Host.Outcome State Fault Refusal

/-- The parameters of the reset state: the defaults of 00_scope R7 where it gives them, no program and no regions
(DESIGN CHOICE, log 6). -/
def resetParams : Params :=
  { progLen := 0, regionMap := [], fbBytesPerRow := 1, mailboxSize := 256, numAgents := 256 }

/-- The machine right after reset (10_state R33). SP, PC, `halted`, `halt_reason` and `console` are the spec's; the
registers, memory, mailboxes and latch are unspecified there and 0 here (DESIGN CHOICE, unsafe: log 1 to 4); role, seed
and parameters are the host's arguments (DESIGN CHOICE, log 6). `construct` takes every other choice. -/
def State.reset : State :=
  { gpr := Vector.replicate 8 0x00#8
    i := 0x0000#16
    sp := 0x00#8
    pc := 0x0100#16
    f := 0x00#8
    halted := false
    haltReason := .none
    role := .agent 0x00#8
    mem := []
    console := []
    mailboxes := []
    rngSeed := 0x01#8
    rngDraws := 0
    keyLatch := []
    params := resetParams }

end Sys2Proof.Machine
end

