-- ==== Sys2Proof/Machine/Operands.lean ====
section
/-! DEFINITION. How operand values are built (30_encoding R73) and narrowed (00_scope R9). -/

namespace Sys2Proof.Machine

/-- `zext_16` of a byte (00_scope R9, 10_state R17; decision D13). -/
def zext16 (b : Byte) : Word := b.setWidth 16

/-- `trunc_8` of a port value (00_scope R9). -/
def trunc8 (v : Word) : Byte := v.setWidth 8

/-- `zext_16(addr12)`, the absolute address of JMP, JZ, JNZ, LD and ST (30_encoding R73). -/
def absAddr (addr12 : BitVec 12) : Word := addr12.setWidth 16

/-- The translated target of CALL: `zext_16(addr12) + STACK_SIZE` (30_encoding R73, 42_control_flow R103). -/
def callTarget (addr12 : BitVec 12) : Word := absAddr addr12 + BitVec.ofNat 16 Config.stackSize

/-- The value LDI writes: its immediate, never sign-extended (30_encoding R73). -/
def immValue (imm8 : Byte) : Word := zext16 imm8

/-- The implicit data register of LD and ST (44_load_store R112; decision D16). -/
def ldstReg : Reg := .gpr Config.ldstReg

/-- The address of the top slot of the stack when SP is `sp`: `STACK_BASE + STACK_SIZE - sp` (20_memory R57). -/
def stackSlot (sp : Byte) : Word := BitVec.ofNat 16 (Config.stackBase + Config.stackSize - sp.toNat)

/-- The key of byte `o` of mailbox `m` in the mailbox store. No two bytes share one. -/
def mailboxKey (m : Byte) (o : Word) : Nat := m.toNat * 65536 + o.toNat

end Sys2Proof.Machine
end

