-- ==== Sys2Proof/Machine/Flags.lean ====
section
/-! DEFINITION. The flag register's layout (10_state R22; decision D6) and the ALU with its flags (41_alu R95, R96). -/

namespace Sys2Proof.Machine

/-- What F keeps of a byte written to it and what it reads as: bits 3:0, with the reserved bits 0 (10_state R22). -/
def flagBits (v : Byte) : Byte := v &&& 0x0F#8

/-- F from four flags: Z bit 0, C bit 1, N bit 2, V bit 3 (10_state R22; decision D6). -/
def packFlags (z c n v : Bool) : Byte :=
  (if z then 0x01#8 else 0x00#8) ||| (if c then 0x02#8 else 0x00#8) |||
  (if n then 0x04#8 else 0x00#8) ||| (if v then 0x08#8 else 0x00#8)

/-- The ALU's operations (41_alu R95). -/
inductive AluOp where
  | pass
  | add
  | sub
deriving DecidableEq, Repr

/-- What the ALU answers. The flags of PASS are "don't care": `writesFlags` is false and nothing reads them. -/
structure AluResult where
  r : Byte
  z : Bool
  c : Bool
  n : Bool
  v : Bool
  writesFlags : Bool
deriving DecidableEq, Repr

/-- The byte result and the flags of an operation that overflowed, as an unsigned 8-bit one, iff `overflow`: Z and N come
from the result, C and V are both `overflow` (41_alu R96; decision D7). -/
def aluFlags (r : Byte) (overflow : Bool) : AluResult :=
  { r := r, z := r == 0x00#8, c := overflow, n := r.getLsbD 7, v := overflow, writesFlags := true }

/-- `alu(ADD, a, b)`: the exact sum of the full port values, and whether it exceeds 255 (41_alu R95; decision D9). -/
def aluAdd (a b : Word) : AluResult :=
  let sum := a.toNat + b.toNat
  aluFlags (BitVec.ofNat 8 sum) (decide (255 < sum))

/-- `alu(SUB, a, b)`: the difference mod 256, and whether a borrow occurs (41_alu R95; decision D9). -/
def aluSub (a b : Word) : AluResult := aluFlags (trunc8 (a - b)) (decide (a.toNat < b.toNat))

/-- `alu` (41_alu R95): pure and combinational. -/
def alu (op : AluOp) (a b : Word) : AluResult :=
  match op with
  | .pass => { r := trunc8 b, z := false, c := false, n := false, v := false, writesFlags := false }
  | .add => aluAdd a b
  | .sub => aluSub a b

end Sys2Proof.Machine
end

