-- ==== Sys2Proof/Machine/Ops.lean ====
section
/-! DEFINITION. The operations the meanings share: the halt primitive, the register file's ports, the region router,
the stack unit, the mailbox store with its translator, and the console. -/

namespace Sys2Proof.Machine

/-! ### Halting: the machine's only exception (40_cycle R90, 60_exceptions R125) -/

/-- `halt_with(reason)` (40_cycle R90). It saves nothing, changes no mode and transfers control nowhere
(60_exceptions R125). There is no return from it (R126). -/
def State.haltWith (s : State) (reason : HaltReason) : State :=
  { s with halted := true, haltReason := reason }

/-- The end of an instruction that may raise. Every check runs before any change (40_cycle R91), so what a raise leaves
is the state at dispatch, halted. -/
def State.settle (s : State) (outcome : Except HaltReason State) : Result :=
  match outcome with
  | .ok t => .next t
  | .error reason => .next (s.haltWith reason)

/-- The numeric code of a halt reason (60_exceptions R123; decision D27). -/
def HaltReason.code : HaltReason → Nat
  | .none => 0
  | .halt _ => 1
  | .decodeError _ => 2
  | .addressFault _ => 3
  | .stackOverflow => 4
  | .stackUnderflow => 5

/-! ### The register file (10_state R17, R18, R19) -/

/-- A read port, `x[r]`: the register zero-extended from its native width; no side effect (10_state R17). -/
def State.readReg (s : State) : Reg → Word
  | .gpr n => zext16 s.gpr[n]
  | .i => s.i
  | .sp => zext16 s.sp
  | .pc => s.pc
  | .f => zext16 (flagBits s.f)

/-- The W port, `x[r] <- v`: keeps the low bits that fit, clears F's reserved bits, never fails (10_state R18). -/
def State.writeReg (s : State) (r : Reg) (v : Word) : State :=
  match r with
  | .gpr n => { s with gpr := s.gpr.set n (trunc8 v) }
  | .i => { s with i := v }
  | .sp => { s with sp := trunc8 v }
  | .pc => { s with pc := v }
  | .f => { s with f := flagBits (trunc8 v) }

/-- The FW port: writes F bits 3:0 and clears bits 7:4 (10_state R19). -/
def State.writeFlags (s : State) (z c n v : Bool) : State := { s with f := packFlags z c n v }

/-- The sequencer's PC port (10_state R19). -/
def State.writePC (s : State) (target : Word) : State := { s with pc := target }

/-- The stack unit's SP port (10_state R19). -/
def State.writeSP (s : State) (v : Byte) : State := { s with sp := v }

/-- `F.Z`, what JZ and JNZ read (10_state R24). -/
def State.flagZ (s : State) : Bool := s.f.getLsbD 0

/-- How an ALU result is written back: the W port, then the FW port if the operation writes flags, so that a flag
write wins over a result written to F (10_state R19, R23; decision D10). -/
def State.writeAlu (s : State) (rd : Reg) (x : AluResult) : State :=
  let t := s.writeReg rd (zext16 x.r)
  if x.writesFlags then t.writeFlags x.z x.c x.n x.v else t

/-! ### The main space and the region router (20_memory R40 to R47) -/

/-- `mem[a]`: one byte of the backing array. -/
def State.memByte (s : State) (a : Word) : Byte := s.mem.read a.toNat

/-- `mem[a] <- v`: one byte of the backing array. -/
def State.setMemByte (s : State) (a : Word) (v : Byte) : State := { s with mem := s.mem.write a.toNat v }

/-- The keyboard latch of an address (20_memory R47). -/
def State.latch (s : State) (a : Word) : Byte := s.keyLatch.read a.toNat

/-- Sets the keyboard latch of an address (20_memory R47). -/
def State.setLatch (s : State) (a : Word) (v : Byte) : State := { s with keyLatch := s.keyLatch.write a.toNat v }

/-- `ConsoleAppend(b)`: the stream only grows and never fails (10_state R31). -/
def State.consoleAppend (s : State) (b : Byte) : State := { s with console := s.console ++ [b] }

/-- The region covers the address: "a (begin, end) half-open byte range" (20_memory R38). -/
def regionCovers (r : Region) (a : Word) : Bool := r.start ≤ a.toNat && a.toNat < r.stop

/-- `owner(a)`: the region that contains `a`, or none for Plain (20_memory R40). A map that passes R38 has at most one;
of a map that does not, which no instance has, the first counts (log 14). -/
def owner (regions : List Region) (a : Word) : Option RegionKind :=
  (regions.find? fun r => regionCovers r a).map Region.kind

/-- The owner of an address of this instance's main space. -/
def State.ownerOf (s : State) (a : Word) : Option RegionKind := owner s.params.regionMap a

/-- `read8(a)` (20_memory R41): plain, FrameBuffer, Console and Storage bytes come from the array (R42 to R45), an Rng
byte is drawn and advances the generator (R46), a Keyboard byte is the latch (R47). -/
def State.read8 (s : State) (a : Word) : Byte × State :=
  match s.ownerOf a with
  | none => (s.memByte a, s)
  | some .frameBuffer => (s.memByte a, s)
  | some .console => (s.memByte a, s)
  | some .storage => (s.memByte a, s)
  | some .rng => (Config.rngByte s.rngSeed s.rngDraws, { s with rngDraws := s.rngDraws + 1 })
  | some .keyboard => (s.latch a, s)

/-- `write8(a, v)` (20_memory R41): a Console write stores and then appends (R44), an Rng write has no effect (R46), a
Keyboard write sets the latch (R47), every other write stores (R42, R43, R45). -/
def State.write8 (s : State) (a : Word) (v : Byte) : State :=
  match s.ownerOf a with
  | none => s.setMemByte a v
  | some .frameBuffer => s.setMemByte a v
  | some .console => (s.setMemByte a v).consoleAppend v
  | some .storage => s.setMemByte a v
  | some .rng => s
  | some .keyboard => s.setLatch a v

/-- A two-byte access at `a` would pass 0xFFFF (20_memory R52). -/
def passesEnd (a : Word) : Bool := Config.memSize ≤ a.toNat + 1

/-- `MemRead(a, 2)`: `read8(a)` then `read8(a+1)`, big-endian (00_scope R10, 20_memory R50, R52). -/
def State.memRead16 (s : State) (a : Word) : Except HaltReason (Word × State) :=
  if passesEnd a then .error (.addressFault (.access a))
  else
    let first := s.read8 a
    let second := first.2.read8 (a + 1)
    .ok (wordOfBytes first.1 second.1, second.2)

/-- `MemWrite(a, 2, v)`: `write8(a, v[15:8])` then `write8(a+1, v[7:0])` (00_scope R10, 20_memory R50, R52). -/
def State.memWrite16 (s : State) (a : Word) (v : Word) : Except HaltReason State :=
  if passesEnd a then .error (.addressFault (.access a))
  else .ok ((s.write8 a (hiByte v)).write8 (a + 1) (loByte v))

/-! ### The stack unit (20_memory R57 to R63) -/

/-- `push8(v)` (20_memory R59). -/
def State.push8 (s : State) (v : Byte) : Except HaltReason State :=
  if Config.stackSize ≤ s.sp.toNat + 1 then .error .stackOverflow
  else
    let sp' := s.sp + 1
    .ok ((s.write8 (stackSlot sp') v).writeSP sp')

/-- `pop8()` (20_memory R60): the byte, and the state with SP lowered. -/
def State.pop8 (s : State) : Except HaltReason (Byte × State) :=
  if s.sp.toNat < 1 then .error .stackUnderflow
  else
    let got := s.read8 (stackSlot s.sp)
    .ok (got.1, got.2.writeSP (s.sp - 1))

/-- `push16(v)` (20_memory R61): the high byte at the lower address. -/
def State.push16 (s : State) (v : Word) : Except HaltReason State :=
  if Config.stackSize ≤ s.sp.toNat + 2 then .error .stackOverflow
  else
    let sp' := s.sp + 2
    match s.memWrite16 (stackSlot sp') v with
    | .ok t => .ok (t.writeSP sp')
    | .error reason => .error reason

/-- `pop16()` (20_memory R62): the word, and the state with SP lowered. -/
def State.pop16 (s : State) : Except HaltReason (Word × State) :=
  if s.sp.toNat < 2 then .error .stackUnderflow
  else
    match s.memRead16 (stackSlot s.sp) with
    | .ok got => .ok (got.1, got.2.writeSP (s.sp - 2))
    | .error reason => .error reason

/-! ### The mailbox store and its translator (20_memory R64, 45_global R115) -/

/-- `MbRead(m, o)` (20_memory R64). -/
def State.mbRead (s : State) (m : Byte) (o : Word) : Byte := s.mailboxes.read (mailboxKey m o)

/-- `MbWrite(m, o, v)` (20_memory R64). -/
def State.mbWrite (s : State) (m : Byte) (o : Word) (v : Byte) : State :=
  { s with mailboxes := s.mailboxes.write (mailboxKey m o) v }

/-- `resolve_mailbox(role, opv)` (45_global R115): an agent always reaches its own mailbox; the arbiter's operand names
the target by its low byte (decision D21). -/
def resolveMailbox (role : Role) (numAgents : Nat) (opv : Word) : Except HaltReason Byte :=
  let m := match role with
    | .agent id => id
    | .arbiter => trunc8 opv
  if numAgents ≤ m.toNat then .error (.addressFault (.mailbox m)) else .ok m

/-- Which byte of the mailbox store a GLD or GST reaches, and the checks before it, mailbox id first, then offset
(45_global R118, 60_exceptions R124; decision D43). -/
def State.mailboxTarget (s : State) (ra : Reg) : Except HaltReason (Byte × Word) :=
  match resolveMailbox s.role s.params.numAgents (s.readReg ra) with
  | .error reason => .error reason
  | .ok m =>
    let o := s.readReg .i
    if s.params.mailboxSize ≤ o.toNat then .error (.addressFault (.mailboxOffset o)) else .ok (m, o)

end Sys2Proof.Machine
end

