-- ==== Sys2Proof/Machine/Alu.lean ====
section
/-! DEFINITION. Groups 0x1 and 0x2: MOV, ADD, SUB, LDI (41_alu). -/

namespace Sys2Proof.Machine

/-- MOV Rd, Rs (41_alu R98): the low byte of Rs; no flags (decision D8). -/
def execMov (rd rs : Reg) (s : State) : Result :=
  .next (s.writeAlu rd (alu .pass (s.readReg rd) (s.readReg rs)))

/-- ADD Rd, Rs (41_alu R99). -/
def execAdd (rd rs : Reg) (s : State) : Result :=
  .next (s.writeAlu rd (alu .add (s.readReg rd) (s.readReg rs)))

/-- SUB Rd, Rs (41_alu R100). -/
def execSub (rd rs : Reg) (s : State) : Result :=
  .next (s.writeAlu rd (alu .sub (s.readReg rd) (s.readReg rs)))

/-- LDI Rd, imm8 (41_alu R101): no flags (decision D8). -/
def execLdi (rd : Reg) (imm8 : Byte) (s : State) : Result :=
  .next (s.writeReg rd (immValue imm8))

end Sys2Proof.Machine
end

