-- ==== Sys2Proof/Machine/Control.lean ====
section
/-! DEFINITION. The next-PC choices of JMP, JZ, JNZ, CALL and RET (42_control_flow). -/

namespace Sys2Proof.Machine

/-- JMP addr12 (42_control_flow R105). -/
def execJmp (addr12 : BitVec 12) (s : State) : Result :=
  .next (s.writePC (absAddr addr12))

/-- JZ addr12 (42_control_flow R106). -/
def execJz (addr12 : BitVec 12) (s : State) : Result :=
  .next (if s.flagZ then s.writePC (absAddr addr12) else s)

/-- JNZ addr12 (42_control_flow R107). -/
def execJnz (addr12 : BitVec 12) (s : State) : Result :=
  .next (if s.flagZ then s else s.writePC (absAddr addr12))

/-- CALL addr12 (42_control_flow R108): pushes PC, which is `pc0 + 2` at dispatch. -/
def execCall (addr12 : BitVec 12) (s : State) : Result :=
  s.settle (match s.push16 (s.readReg .pc) with
    | .ok t => .ok (t.writePC (callTarget addr12))
    | .error reason => .error reason)

/-- RET (42_control_flow R109). -/
def execRet (s : State) : Result :=
  s.settle (match s.pop16 with
    | .ok got => .ok (got.2.writePC got.1)
    | .error reason => .error reason)

end Sys2Proof.Machine
end

