-- ==== Sys2Proof/Machine/Global.lean ====
section
/-! DEFINITION. GLD and GST (45_global): one byte between a register and a mailbox. -/

namespace Sys2Proof.Machine

/-- GLD Rv, Ra (45_global R118). -/
def execGld (rv ra : Reg) (s : State) : Result :=
  s.settle (match s.mailboxTarget ra with
    | .ok target => .ok (s.writeReg rv (zext16 (s.mbRead target.1 target.2)))
    | .error reason => .error reason)

/-- GST Rv, Ra (45_global R119). -/
def execGst (rv ra : Reg) (s : State) : Result :=
  s.settle (match s.mailboxTarget ra with
    | .ok target => .ok (s.mbWrite target.1 target.2 (trunc8 (s.readReg rv)))
    | .error reason => .error reason)

end Sys2Proof.Machine
end

