-- ==== Sys2Proof/Machine/LoadStore.lean ====
section
/-! DEFINITION. LD and ST (44_load_store): one byte between R0 and an absolute address, through the router. -/

namespace Sys2Proof.Machine

/-- LD addr12 (44_load_store R113). -/
def execLd (addr12 : BitVec 12) (s : State) : Result :=
  .next ((s.read8 (absAddr addr12)).2.writeReg ldstReg (zext16 (s.read8 (absAddr addr12)).1))

/-- ST addr12 (44_load_store R114). -/
def execSt (addr12 : BitVec 12) (s : State) : Result :=
  .next (s.write8 (absAddr addr12) (trunc8 (s.readReg ldstReg)))

end Sys2Proof.Machine
end

