-- ==== Sys2Proof/Machine/Stack.lean ====
section
/-! DEFINITION. PUSH and POP (43_stack). -/

namespace Sys2Proof.Machine

/-- PUSH Rr (43_stack R110): the low byte, read before SP changes. -/
def execPush (r : Reg) (s : State) : Result :=
  s.settle (s.push8 (trunc8 (s.readReg r)))

/-- POP Rr (43_stack R111): the W write comes after the SP write, so POP SP leaves the popped byte (decision D34). -/
def execPop (r : Reg) (s : State) : Result :=
  s.settle (match s.pop8 with
    | .ok got => .ok (got.2.writeReg r (zext16 got.1))
    | .error reason => .error reason)

end Sys2Proof.Machine
end

