-- ==== Sys2Proof/Machine/System.lean ====
section
/-! DEFINITION. NOP and HALT (40_cycle R93, R94) and the one system call, PUTC (46_system R121). -/

namespace Sys2Proof.Machine

/-- NOP (40_cycle R93): nothing beyond the step's PC advance. -/
def execNop (s : State) : Result := .next s

/-- HALT code8 (40_cycle R94): the halt primitive with the code; not a fault. -/
def execHalt (code8 : Byte) (s : State) : Result := .next (s.haltWith (.halt code8))

/-- PUTC Rr (46_system R121): appends the low byte to the console. -/
def execPutc (r : Reg) (s : State) : Result := .next (s.consoleAppend (trunc8 (s.readReg r)))

end Sys2Proof.Machine
end

