-- ==== Sys2Proof/Machine/Dispatch.lean ====
section
/-! DEFINITION. Dispatch: the handler of each decoded instruction, run after the PC advance (40_cycle R84, R89). -/

namespace Sys2Proof.Machine

def exec (i : Instr) (s : State) : Host.Outcome State Fault Refusal :=
  match i with
  | .nop => Sys2Proof.Machine.execNop s
  | .halt code8 => Sys2Proof.Machine.execHalt code8 s
  | .mov rd rs => Sys2Proof.Machine.execMov rd rs s
  | .add rd rs => Sys2Proof.Machine.execAdd rd rs s
  | .sub rd rs => Sys2Proof.Machine.execSub rd rs s
  | .ldi rd imm8 => Sys2Proof.Machine.execLdi rd imm8 s
  | .jmp addr12 => Sys2Proof.Machine.execJmp addr12 s
  | .jz addr12 => Sys2Proof.Machine.execJz addr12 s
  | .jnz addr12 => Sys2Proof.Machine.execJnz addr12 s
  | .call addr12 => Sys2Proof.Machine.execCall addr12 s
  | .ret => Sys2Proof.Machine.execRet s
  | .push r => Sys2Proof.Machine.execPush r s
  | .pop r => Sys2Proof.Machine.execPop r s
  | .ld addr12 => Sys2Proof.Machine.execLd addr12 s
  | .st addr12 => Sys2Proof.Machine.execSt addr12 s
  | .gld rv ra => Sys2Proof.Machine.execGld rv ra s
  | .gst rv ra => Sys2Proof.Machine.execGst rv ra s
  | .putc r => Sys2Proof.Machine.execPutc r s

end Sys2Proof.Machine
end

