-- ==== Sys2Proof/Machine/Sequencer.lean ====
section
/-! DEFINITION. The sequencer up to dispatch (40_cycle R84 to R89): the fetch-range check, the PC advance, the fetch and
the decode. -/

namespace Sys2Proof.Machine

/-- What the sequencer comes to before dispatch. -/
inductive Sequenced where
  /-- The step ends in this state: the instance was halted already, or a check of the fetch halted it. -/
  | done (t : State)
  /-- This instruction is to be dispatched at this state, whose PC is already advanced. -/
  | dispatch (i : Instr) (t : State)

/-- The fetch-range check passes: `CODE_BASE <= pc0 < PROG_END` (40_cycle R86; decision D24). -/
def State.fetchInRange (s : State) : Bool :=
  Config.codeBase ≤ s.pc.toNat && s.pc.toNat < s.params.progEnd

/-- Both bytes of the word at PC lie in the code region (40_cycle R88). -/
def State.wholeWord (s : State) : Bool := s.pc.toNat + 1 < s.params.progEnd

/-- The PC advance, `PC <- pc0 + 2` (40_cycle R87). -/
def State.advancePC (s : State) : State := s.writePC (s.pc + 2)

/-- `FetchWord(a)`: the word in the backing array, big-endian, without side effect (20_memory R56). -/
def State.fetchWord (s : State) (a : Word) : Word := wordOfBytes (s.memByte a) (s.memByte (a + 1))

/-- The fetch and decode of the word at PC (40_cycle R88, R89). The second check is 20_memory R52; no instance whose
program fits reaches it. -/
def State.fetchInstr (s : State) : Except HaltReason Instr :=
  if !s.wholeWord then .error (.decodeError (.partialByte (s.memByte s.pc)))
  else if passesEnd s.pc then .error (.addressFault (.fetch s.pc))
  else
    match decode (s.fetchWord s.pc) with
    | .ok i => .ok i
    | .error _ => .error (.decodeError (.word (s.fetchWord s.pc)))

/-- The step up to dispatch (40_cycle R84). A halted instance changes nothing and fetches nothing (R85). -/
def State.sequence (s : State) : Sequenced :=
  if s.halted then .done s
  else if !s.fetchInRange then .done (s.haltWith (.addressFault (.fetch s.pc)))
  else
    match s.fetchInstr with
    | .error reason => .done (s.advancePC.haltWith reason)
    | .ok i => .dispatch i s.advancePC

/-- A word placed in the backing array at `a`, big-endian (20_memory R49). -/
def State.placeWord (s : State) (a : Word) (w : Word) : State :=
  (s.setMemByte a (hiByte w)).setMemByte (a + 1) (loByte w)

/-- The program made long enough to hold the whole word at PC. -/
def State.coverPC (s : State) : State :=
  { s with params := { s.params with progLen := max s.params.progLen (s.pc.toNat + 2 - Config.codeBase) } }

end Sys2Proof.Machine
end

