-- ==== Sys2Proof/Machine/Step.lean ====
section
/-! DEFINITION. One call of `step()` (40_cycle R84), and the host's way to place the next instruction. -/

namespace Sys2Proof.Machine

/-- `step()` (40_cycle R84). -/
def step (s : State) : Host.Outcome State Fault Refusal :=
  match s.sequence with
  | .done t => .next t
  | .dispatch i t => exec i t

/-- The instruction whose bits are `w` placed where a running instance fetches next: its two bytes at PC, the high byte
first, and `PROG_LEN` at least long enough to hold them (40_cycle R86, R88). It stands for the host's loading of a
program (70_reset R136; log 7). Nothing else changes: PC stays, and a halted instance, which fetches nothing, stays
halted. -/
def State.withFetchWord (s : State) (nbits w : Nat) : State :=
  (s.placeWord s.pc (tableWord nbits w)).coverPC

end Sys2Proof.Machine
end

