-- ==== Sys2Proof/Machine/Boot.lean ====
section
/-! DEFINITION. Construction of an instance by the host, which is its reset (70_reset R136, 10_state R33), for every
launch and every draw of what the spec leaves unspecified (10_state R34). -/

namespace Sys2Proof.Machine

/-- What the host gives at construction (60_exceptions R135). -/
structure Launch where
  program : List Byte
  role : Role
  /-- `RNG_SEED`, at least 1. -/
  rngSeed : Byte
  /-- The prebuilt image of the Storage region; the CORE never interprets it (20_memory R48). -/
  storageImage : List Byte
  regionMap : List Region
  fbBytesPerRow : Nat
  mailboxSize : Nat
  numAgents : Nat
deriving DecidableEq, Repr

/-- One draw of every element whose reset value is "unspecified" (10_state R33, R34). Stores are given as cells; an
element no cell names is drawn as `Memory.unlisted`. -/
structure PowerOn where
  gpr : Vector Byte 8
  i : Word
  f : Byte
  mem : List Host.Cell
  mailboxes : List Host.Cell
  keyLatch : List Host.Cell
deriving DecidableEq, Repr

/-- Why the host aborts startup (60_exceptions R128). The spec has one LoadError; naming its causes is the model's
(DESIGN CHOICE, log 19). -/
inductive LoadError where
  /-- The map breaks 20_memory R38. -/
  | regionMap
  /-- The program would pass 0xFFFE (decision D25). -/
  | program
  /-- `MAILBOX_SIZE` or `NUM_AGENTS` is outside its range (00_scope R7); the check is the model's (log 12). -/
  | mailboxes
  /-- The agent id is at or above `NUM_AGENTS`. -/
  | agentId
  /-- The seed is 0 (decision D38). -/
  | seed
  /-- The storage image does not fit its region (log 12). -/
  | storageImage
deriving DecidableEq, Repr

/-- The parameters of a launch. -/
def Launch.params (l : Launch) : Params :=
  { progLen := l.program.length, regionMap := l.regionMap, fbBytesPerRow := l.fbBytesPerRow,
    mailboxSize := l.mailboxSize, numAgents := l.numAgents }

/-- Where the storage image goes: the first Storage region of the map (log 12). -/
def Launch.storageRegion (l : Launch) : Option Region := l.regionMap.find? fun r => r.kind == .storage

/-- The image is empty or fits the Storage region (60_exceptions R128, "sized correctly"; log 12). -/
def Launch.imageFits (l : Launch) : Bool :=
  match l.storageRegion with
  | some r => r.start + l.storageImage.length ≤ r.stop
  | none => l.storageImage.isEmpty

/-- The host's checks before an instance exists (70_reset R136 item 1, 60_exceptions R128). The first that fails is
reported, in an order the spec does not give (DESIGN CHOICE, log 19). -/
def Launch.check (l : Launch) : Option LoadError :=
  if !l.params.regionMapOk then some .regionMap
  else if !l.params.programFits then some .program
  else if !l.params.mailboxesOk then some .mailboxes
  else if !l.role.fits l.params then some .agentId
  else if l.rngSeed == 0x00#8 then some .seed
  else if !l.imageFits then some .storageImage
  else none

/-- The mailbox byte a key names exists: its mailbox and its offset are in range (20_memory R64). -/
def mailboxKeyInRange (p : Params) (k : Nat) : Bool := k / 65536 < p.numAgents && k % 65536 < p.mailboxSize

/-- The main space before the program: the draw, on the addresses that exist. -/
def PowerOn.memory (d : PowerOn) : Memory := Memory.ofCells (d.mem.filter fun c => c.1 < Config.memSize)

/-- The mailbox store at the scenario's start: the draw, on the bytes that exist. -/
def PowerOn.mailboxStore (d : PowerOn) (p : Params) : Memory :=
  Memory.ofCells (d.mailboxes.filter fun c => mailboxKeyInRange p c.1)

/-- The keyboard latch before the host writes it: the draw, on the addresses that exist. -/
def PowerOn.latch (d : PowerOn) : Memory := Memory.ofCells (d.keyLatch.filter fun c => c.1 < Config.memSize)

/-- The storage image written "wholesale into the storage region" (70_reset R136 item 4). -/
def Launch.placeImage (l : Launch) (m : Memory) : Memory :=
  match l.storageRegion with
  | some r => m.writeList r.start l.storageImage
  | none => m

/-- The main space an instance starts with (10_state R33). -/
def Launch.memory (l : Launch) (d : PowerOn) : Memory :=
  l.placeImage (d.memory.writeList Config.codeBase l.program)

/-- The state of a constructed instance (10_state R33). -/
def Launch.state (l : Launch) (d : PowerOn) : State :=
  { gpr := d.gpr
    i := d.i
    sp := 0x00#8
    pc := BitVec.ofNat 16 Config.codeBase
    f := flagBits d.f
    halted := false
    haltReason := .none
    role := l.role
    mem := l.memory d
    console := []
    mailboxes := d.mailboxStore l.params
    rngSeed := l.rngSeed
    rngDraws := 0
    keyLatch := d.latch
    params := l.params }

/-- Construction (70_reset R136): a LoadError and no instance, or a Running instance in the reset state. -/
def construct (l : Launch) (d : PowerOn) : Except LoadError State :=
  match l.check with
  | some e => .error e
  | none => .ok (l.state d)

/-- The launch `State.reset` stands for (log 6): no program, every parameter at its default. -/
def Launch.reset : Launch :=
  { program := [], role := .agent 0x00#8, rngSeed := 0x01#8, storageImage := [], regionMap := [], fbBytesPerRow := 1,
    mailboxSize := 256, numAgents := 256 }

/-- The draw `State.reset` stands for (log 1 to 4): zeros. -/
def PowerOn.reset : PowerOn :=
  { gpr := Vector.replicate 8 0x00#8, i := 0x0000#16, f := 0x00#8, mem := [], mailboxes := [], keyLatch := [] }

end Sys2Proof.Machine
end

