-- ==== Sys2Proof/Machine/Platform.lean ====
section
/-! DEFINITION. What the host does to a running instance (60_exceptions R135) and how it reads the frame buffer
(20_memory R43). -/

namespace Sys2Proof.Machine

/-- The host writes one byte into the keyboard latch of a keyboard address (20_memory R47, 60_exceptions R135). At any
other address there is no latch the host may touch, and nothing happens. -/
def State.hostKey (s : State) (a : Word) (v : Byte) : State :=
  if s.ownerOf a = some .keyboard then s.setLatch a v else s

/-- The host's moves that change an instance: it steps it, or it writes the keyboard latch between steps
(60_exceptions R135). -/
inductive HostMove where
  | step
  | key (a : Word) (v : Byte)
deriving DecidableEq, Repr

/-- One move of the host. -/
def hostMove (m : HostMove) (s : State) : Result :=
  match m with
  | .step => step s
  | .key a v => .next (s.hostKey a v)

/-- A run under a host's schedule: "the host may write the latch between any two steps" (20_memory R47), so a claim
about runs is a claim about every list of moves. -/
def runMoves : List HostMove → State → Result
  | [], s => .next s
  | m :: ms, s =>
    match hostMove m s with
    | .next t => runMoves ms t
    | .fault r => .fault r
    | .refused r => .refused r

/-- Pixel `(x, y)` of a FrameBuffer region: bit `7 - (x mod 8)` of the byte at
`begin + y * FB_BYTES_PER_ROW + floor(x / 8)` (20_memory R43). A byte outside the region is read all the same
(DESIGN CHOICE, log 18). -/
def State.pixel (s : State) (fb : Region) (x y : Nat) : Bool :=
  (s.mem.read (fb.start + y * s.params.fbBytesPerRow + x / 8)).getLsbD (7 - x % 8)

/-- The row count of a FrameBuffer region (20_memory R43): rounded down, and 0 where FB_BYTES_PER_ROW is 0, which the
spec neither allows nor forbids (DESIGN CHOICE, log 18). -/
def State.pixelRows (s : State) (fb : Region) : Nat := (fb.stop - fb.start) / s.params.fbBytesPerRow

end Sys2Proof.Machine
end

