-- ==== Sys2Proof/Machine/Scenario.lean ====
section
/-! DEFINITION. Several instances over one mailbox store (20_memory R64, R65; 60_exceptions R132). The host chooses
which instance moves next; the order is free. -/

namespace Sys2Proof.Machine

/-- A scenario. The store is the one all instances share; the `mailboxes` field of a listed instance is what it saw in
its own last move and is not read. Instances may differ in NUM_AGENTS or MAILBOX_SIZE, and each checks its accesses by
its own parameters: the spec gives the store one geometry and no check of agreement (DESIGN CHOICE, log 17). -/
structure Scenario where
  instances : List State
  mailboxes : Memory
deriving DecidableEq, Repr

/-- An instance about to move: it sees the shared store as every earlier move left it (20_memory R65). -/
def Scenario.sees (sc : Scenario) (s : State) : State := { s with mailboxes := sc.mailboxes }

/-- The scenario after its instance `k` came to `t`. -/
def Scenario.after (sc : Scenario) (k : Nat) (t : State) : Scenario :=
  { instances := sc.instances.set k t, mailboxes := t.mailboxes }

/-- One whole move of instance `k`. An instance that is not there has no move, and the scenario
stays as it is (DESIGN CHOICE, log 17). -/
def Scenario.move (sc : Scenario) (k : Nat) (m : HostMove) : Host.Outcome Scenario Fault Refusal :=
  match sc.instances[k]? with
  | none => .next sc
  | some s =>
    match hostMove m (sc.sees s) with
    | .next t => .next (sc.after k t)
    | .fault r => .fault r
    | .refused r => .refused r

/-- A run: one total order of whole moves, chosen by the host (20_memory R65). -/
def Scenario.run (sc : Scenario) : List (Nat × HostMove) → Host.Outcome Scenario Fault Refusal
  | [] => .next sc
  | (k, m) :: ms =>
    match sc.move k m with
    | .next sc' => Scenario.run sc' ms
    | .fault r => .fault r
    | .refused r => .refused r

end Sys2Proof.Machine
end

