-- ==== Sys2Proof/Safety.lean ====
section
/-! DEFINITION. The words claims are made in: how a run ends, the invariant of an instance, and frames. -/

namespace Sys2Proof.Machine

/-! ### How a run ends (70_reset R140) -/

/-- The run ended normally: halted by HALT. -/
def State.endedNormally (s : State) : Prop := s.halted = true ∧ ∃ code8, s.haltReason = .halt code8

/-- The run ended in a fault: halted for a reason of 60_exceptions R123 other than HALT. -/
def State.faulted (s : State) : Prop := s.halted = true ∧ 2 ≤ s.haltReason.code

/-- A step of a running instance: the relation in which a halted state has no step at all, as 40_cycle R85 asks of a
model (decision D28). -/
def Transition (s t : State) : Prop := s.halted = false ∧ step s = .next t

/-! ### The invariant of an instance -/

/-- What holds of every constructed instance and what every step and every host move keep. -/
structure State.Inv (s : State) : Prop where
  /-- The main space is in canonical form and inside the 64 KiB (20_memory R35). -/
  mem_wf : s.mem.wf = true
  mem_below : s.mem.below Config.memSize = true
  /-- The mailbox store is in canonical form, and lists only bytes of mailboxes that exist (20_memory R64). -/
  mailboxes_wf : s.mailboxes.wf = true
  mailboxes_range : s.mailboxes.all (fun c => mailboxKeyInRange s.params c.1) = true
  /-- The keyboard latch is in canonical form, at addresses of the main space. -/
  latch_wf : s.keyLatch.wf = true
  latch_below : s.keyLatch.below Config.memSize = true
  /-- The reserved bits of F are 0 (10_state R22). -/
  flags_reserved : flagBits s.f = s.f
  /-- The parameters pass the host's checks (20_memory R38, 00_scope R7). -/
  params_wf : s.params.wf = true
  /-- An agent's id has a mailbox (00_scope R7). -/
  role_fits : s.role.fits s.params = true
  /-- The seed is at least 1 (00_scope R7). -/
  seed_pos : s.rngSeed ≠ 0x00#8
  /-- `halt_reason` is none exactly while running (10_state R28). -/
  reason_iff : s.halted = true ↔ s.haltReason ≠ .none

/-! ### Frames -/

/-- Every register but those listed reads as before. -/
def SameRegsBut (changed : List Reg) (s t : State) : Prop := ∀ r, r ∉ changed → t.readReg r = s.readReg r

/-- Every byte of the main space's array reads as before. -/
def SameMem (s t : State) : Prop := ∀ a, t.memByte a = s.memByte a

/-- Every byte of the main space's array but those listed reads as before. -/
def SameMemBut (changed : List Word) (s t : State) : Prop := ∀ a, a ∉ changed → t.memByte a = s.memByte a

/-- Every byte of the mailbox store reads as before. -/
def SameMailboxes (s t : State) : Prop := ∀ m o, t.mbRead m o = s.mbRead m o

/-- Every keyboard latch reads as before. -/
def SameLatch (s t : State) : Prop := ∀ a, t.latch a = s.latch a

/-- Nothing was drawn from the RNG generator. -/
def SameRng (s t : State) : Prop := t.rngSeed = s.rngSeed ∧ t.rngDraws = s.rngDraws

/-- Nothing was appended to the console. -/
def SameConsole (s t : State) : Prop := t.console = s.console

/-- `halted`, `halt_reason`, `role` and the parameters are as before. -/
def SameControl (s t : State) : Prop :=
  t.halted = s.halted ∧ t.haltReason = s.haltReason ∧ t.role = s.role ∧ t.params = s.params

/-- Everything outside the registers is as before. -/
def OnlyRegs (s t : State) : Prop :=
  SameMem s t ∧ SameMailboxes s t ∧ SameLatch s t ∧ SameRng s t ∧ SameConsole s t ∧ SameControl s t

/-- What register `r` reads as after the W port wrote the byte `v` to it: the byte, zero-extended; F keeps bits 3:0
(10_state R18, R22). -/
def afterByteWrite (r : Reg) (v : Byte) : Word :=
  if r = .f then zext16 (v &&& 0x0F#8) else zext16 v

/-- The next step is an AddressFault of the fetch, with PC left where it is (40_cycle R86). -/
def NextStepFetchFaults (t : State) : Prop := step t = .next (t.haltWith (.addressFault (.fetch t.pc)))

/-! ### Fetching and encoding, said in numbers -/

/-- A running instance whose next step fetches the whole word `w` (40_cycle R86, R88), with a program that fits
(00_scope R7). -/
def State.fetches (s : State) (w : Word) : Prop :=
  s.halted = false ∧ Config.codeBase ≤ s.pc.toNat ∧ s.pc.toNat + 1 < s.params.progEnd ∧
  s.params.progEnd ≤ Config.progEndMax ∧ w = wordOfBytes (s.memByte s.pc) (s.memByte (s.pc + 1))

/-- The pattern of each row of 30_encoding R79 as a sum of its fields. -/
def layoutNumber : Instr → Nat
  | .nop => 0x0000
  | .halt code8 => 0x0100 + code8.toNat
  | .mov d s => 0x1000 + 16 * d.code.toNat + s.code.toNat
  | .add d s => 0x1100 + 16 * d.code.toNat + s.code.toNat
  | .sub d s => 0x1200 + 16 * d.code.toNat + s.code.toNat
  | .ldi d imm8 => 0x2000 + 256 * d.code.toNat + imm8.toNat
  | .jmp addr12 => 0x3000 + addr12.toNat
  | .jz addr12 => 0x4000 + addr12.toNat
  | .jnz addr12 => 0x5000 + addr12.toNat
  | .call addr12 => 0x6000 + addr12.toNat
  | .ret => 0x7000
  | .push r => 0x7100 + 16 * r.code.toNat
  | .pop r => 0x7200 + 16 * r.code.toNat
  | .ld addr12 => 0x8000 + addr12.toNat
  | .st addr12 => 0x9000 + addr12.toNat
  | .gld v a => 0xA000 + 16 * v.code.toNat + a.code.toNat
  | .gst v a => 0xA100 + 16 * v.code.toNat + a.code.toNat
  | .putc r => 0xB000 + 16 * r.code.toNat

/-- A register code that is not defined (10_state R14). -/
def badCode (c : Nat) : Prop := 8 ≤ c ∧ c ≤ 11

/-- The words that do not decode, group by group (30_encoding R80). -/
def undecodable (w : Word) : Prop :=
  let n := w.toNat
  let g := n / 4096
  let s := n / 256 % 16
  let hi := n / 16 % 16
  let lo := n % 16
  (g = 0x0 ∧ n ≠ 0x0000 ∧ ¬ (0x0100 ≤ n ∧ n ≤ 0x01FF)) ∨
  (g = 0x1 ∧ (3 ≤ s ∨ badCode hi ∨ badCode lo)) ∨
  (g = 0x2 ∧ badCode s) ∨
  (g = 0x7 ∧ ((s = 0 ∧ n % 256 ≠ 0) ∨ ((s = 1 ∨ s = 2) ∧ (lo ≠ 0 ∨ badCode hi)) ∨ 3 ≤ s)) ∨
  (g = 0xA ∧ (2 ≤ s ∨ badCode hi ∨ badCode lo)) ∨
  (g = 0xB ∧ (1 ≤ s ∨ lo ≠ 0 ∨ badCode hi)) ∨
  0xC ≤ g

/-! ### Which instruction may change what -/

/-- Every register the rules let an instruction change (10_state R23, 42_control_flow R102): its destination, F for ADD
and SUB, SP for the stack instructions, PC for the control transfers, R0 for LD. -/
def mayWrite : Instr → List Reg
  | .nop => []
  | .halt _ => []
  | .mov d _ => [d]
  | .add d _ => [d, .f]
  | .sub d _ => [d, .f]
  | .ldi d _ => [d]
  | .jmp _ => [.pc]
  | .jz _ => [.pc]
  | .jnz _ => [.pc]
  | .call _ => [.sp, .pc]
  | .ret => [.sp, .pc]
  | .push _ => [.sp]
  | .pop r => [r, .sp]
  | .ld _ => [.gpr 0]
  | .st _ => []
  | .gld v _ => [v]
  | .gst _ _ => []
  | .putc _ => []

/-- The instruction is GLD or GST, the only two that reach a mailbox (20_memory R36). -/
def reachesMailbox (i : Instr) : Prop := (∃ v a, i = .gld v a) ∨ (∃ v a, i = .gst v a)

/-- The instruction may store to the main space: PUSH, CALL and ST (20_memory R53). -/
def mayStore (i : Instr) : Prop :=
  (∃ r, i = .push r) ∨ (∃ addr12, i = .call addr12) ∨ (∃ addr12, i = .st addr12)

/-- The mailbox a role and an operand value name (45_global R115): an agent's own, or the arbiter's choice by the
operand's low byte (decision D21). -/
def targetMailbox (role : Role) (opv : Word) : Byte :=
  match role with
  | .agent id => id
  | .arbiter => BitVec.ofNat 8 opv.toNat

end Sys2Proof.Machine
end

