-- ==== Sys2Proof/Certificates/Slice0/Obligations.lean ====
section
/-! DEFINITION. The statements for the provers. Each docstring names the rules of spec/ it speaks of; OBLIGATIONS.json
says which are stated by a rule as a whole and which are derived. -/

open Sys2Proof Sys2Proof.Machine

/-- 30_encoding R78: `encode` is total, injective and inverse to `decode` on both sides, with each field at its position
of R71 and every filler bit 0. Every term of `Instr` has valid register fields by type. The last clause places more
than R78 says: code 0xC for I, HALT's code field and groups 0xA and 0xB are the spec's own choices (decisions D11,
D29, D17, D18), and the model fixes the constants (DESIGN CHOICE, log 10). -/
def Obligations.DecodeInvertsEncode : Prop :=
  (∀ i, decode (encode i) = .ok i) ∧
  (∀ w i, decode w = .ok i → encode i = w) ∧
  (∀ i j, encode i = encode j → i = j) ∧
  ∀ i, (encode i).toNat = layoutNumber i

/-- The masks and matches of 30_encoding R79 against the case analysis of R76: two descriptions of one decoder. The
placement of groups 0xA and 0xB is the spec's own choice (decisions D17, D18; log 10). -/
def Obligations.WordsDecodeByTheOpcodeMap : Prop :=
  (∀ w, wellFormedWord w = true ↔ ∃ i, decode w = .ok i) ∧
  (∀ w i, decode w = .ok i → ∃ row ∈ opcodeTable, row.mnemonic = i.mnemonic ∧ row.selects w = true) ∧
  opcodeTable.Pairwise fun row row' => ∀ w, ¬ (row.selects w = true ∧ row'.selects w = true)

/-- 30_encoding R80: the words that do not decode, and that each raises DecodeError when fetched. Everything outside the
list decodes, so no word is a hint and there is no custom space. -/
def Obligations.UndecodableWordsHalt : Prop :=
  (∀ w, undecodable w ↔ ∃ why, decode w = .error why) ∧
  ∀ (s : State) (w : Word), s.fetches w → undecodable w →
    step s = .next { s with pc := s.pc + 2, halted := true, haltReason := .decodeError (.word w) }

/-- 95_test_vectors L2-D, L1-8 and L1-9: a sanity statement over fixed words. -/
def Obligations.SpecWordsDecodeAsWritten : Prop :=
  decode 0x0000#16 = .ok .nop ∧ decode 0x01FF#16 = .ok (.halt 0xFF#8) ∧
  decode 0x10DE#16 = .ok (.mov .sp .pc) ∧ decode 0x11EC#16 = .ok (.add .pc .i) ∧
  decode 0x1201#16 = .ok (.sub (.gpr 0) (.gpr 1)) ∧ decode 0x2CFF#16 = .ok (.ldi .i 0xFF#8) ∧
  decode 0x3120#16 = .ok (.jmp 0x120#12) ∧ decode 0x4120#16 = .ok (.jz 0x120#12) ∧
  decode 0x5104#16 = .ok (.jnz 0x104#12) ∧ decode 0x6FFF#16 = .ok (.call 0xFFF#12) ∧
  decode 0x7000#16 = .ok .ret ∧ decode 0x7130#16 = .ok (.push (.gpr 3)) ∧
  decode 0x72F0#16 = .ok (.pop .f) ∧ decode 0x8FFF#16 = .ok (.ld 0xFFF#12) ∧
  decode 0x9000#16 = .ok (.st 0x000#12) ∧ decode 0xA0C2#16 = .ok (.gld .i (.gpr 2)) ∧
  decode 0xB030#16 = .ok (.putc (.gpr 3))

/-- 40_cycle R84, R86 to R89: the whole way from PC to the handler. The valid fetch range is the spec's choice (decision
D24). -/
def Obligations.StepRunsTheDecodedInstruction : Prop :=
  ∀ (s : State) (w : Word) (i : Instr), s.fetches w → decode w = .ok i →
    step s = exec i { s with pc := s.pc + 2 }

/-- 40_cycle R87. The bound is that of 00_scope R7, a check of construction. -/
def Obligations.PcAdvancesBeforeEverythingElse : Prop :=
  ∀ s : State, s.halted = false → Config.codeBase ≤ s.pc.toNat → s.pc.toNat < s.params.progEnd →
    s.params.progEnd ≤ Config.progEndMax →
    (s.pc + 2).toNat = s.pc.toNat + 2 ∧
    (∀ w i, s.fetches w → decode w = .ok i →
      ∃ d : State, step s = exec i d ∧ d = { s with pc := s.pc + 2 } ∧ (d.readReg .pc).toNat = s.pc.toNat + 2) ∧
    ∀ t, step s = .next t → t.halted = true → t.pc = s.pc + 2

/-- 40_cycle R86. The range, with its lower bound, is the spec's choice (decision D24). -/
def Obligations.FetchOutsideTheProgramFaults : Prop :=
  ∀ s : State, s.halted = false → s.pc.toNat < Config.codeBase ∨ s.params.progEnd ≤ s.pc.toNat →
    step s = .next { s with halted := true, haltReason := .addressFault (.fetch s.pc) }

/-- 40_cycle R88 and R89. -/
def Obligations.HalfWordOrWordIsFetched : Prop :=
  ∀ s : State, s.halted = false → Config.codeBase ≤ s.pc.toNat → s.params.progEnd ≤ Config.progEndMax →
    (s.pc.toNat + 1 = s.params.progEnd →
      step s = .next { s with pc := s.pc + 2, halted := true, haltReason := .decodeError (.partialByte (s.memByte s.pc)) }) ∧
    (s.pc.toNat + 1 < s.params.progEnd →
      ∀ w, w = wordOfBytes (s.memByte s.pc) (s.memByte (s.pc + 1)) →
        (∀ i, decode w = .ok i → step s = exec i { s with pc := s.pc + 2 }) ∧
        (∀ why, decode w = .error why →
          step s = .next { s with pc := s.pc + 2, halted := true, haltReason := .decodeError (.word w) }))

/-- 40_cycle R85, 10_state R27, 60_exceptions R126. That a step of a halted instance is a no-op and not an error is the
spec's choice (decision D28; log 8). -/
def Obligations.HaltedIsFinal : Prop :=
  ∀ (s : State) (n : Nat), s.halted = true →
    runMoves (List.replicate n .step) s = .next s ∧ ∀ t, ¬ Transition s t

/-- 40_cycle R90, R91 and 60_exceptions R125, over every instruction and every state. The range checked, the PC left
behind and the record of the reason are the spec's choices (decisions D24, D26, D27). -/
def Obligations.FaultsArePrecise : Prop :=
  ∀ s t : State, s.halted = false → step s = .next t → t.halted = true →
    ∃ reason, reason ≠ .none ∧
      (((s.pc.toNat < Config.codeBase ∨ s.params.progEnd ≤ s.pc.toNat) ∧ reason = .addressFault (.fetch s.pc) ∧
          t = { s with halted := true, haltReason := reason }) ∨
        (Config.codeBase ≤ s.pc.toNat ∧ s.pc.toNat < s.params.progEnd ∧
          t = { s with pc := s.pc + 2, halted := true, haltReason := reason }))

/-- 60_exceptions R123, R125: every way an instance can stop is a halted state. That such a state is a next state here
is the model's choice (log 8). -/
def Obligations.EveryStepAnswersAState : Prop :=
  (∀ (i : Instr) (s : State), ∃ t, exec i s = .next t) ∧ ∀ s : State, ∃ t, step s = .next t

/-- The instructions' own checks of 60_exceptions R123 and R124. The reason record is the spec's choice (decision D27). -/
def Obligations.OnlyNamedCausesHalt : Prop :=
  ∀ (i : Instr) (s t : State), s.halted = false → exec i s = .next t → t.halted = true →
    (∃ code8, i = .halt code8 ∧ t.haltReason = .halt code8) ∨
    (t.haltReason = .stackOverflow ∧ ((∃ addr12, i = .call addr12) ∨ ∃ r, i = .push r)) ∨
    (t.haltReason = .stackUnderflow ∧ (i = .ret ∨ ∃ r, i = .pop r)) ∨
    (((∃ m, t.haltReason = .addressFault (.mailbox m)) ∨ ∃ o, t.haltReason = .addressFault (.mailboxOffset o)) ∧
      ((∃ v a, i = .gld v a) ∨ ∃ v a, i = .gst v a))

/-- 10_state R33, for the values it states (PC, SP and the console are decisions D4 and D30). That the unspecified
elements are 0 in State.reset is the model's choice (log 1 to 6). -/
def Obligations.ResetStateIsAsTheRulesSay : Prop :=
  State.reset.halted = false ∧ State.reset.haltReason = .none ∧ State.reset.pc = 0x0100#16 ∧
  State.reset.sp = 0x00#8 ∧ State.reset.console = [] ∧
  construct Launch.reset PowerOn.reset = .ok State.reset

/-- 70_reset R136 and 10_state R33, for every launch and every draw (R34). The store a draw stands for is that of its
cells, written one after another (log 2 to 4). The reset counter `rngDraws` (log 5) and that the image goes to the
first Storage region (log 12) are the model's choices. -/
def Obligations.ConstructionGivesTheResetState : Prop :=
  ∀ (l : Launch) (d : PowerOn) (s : State), construct l d = .ok s →
    s.halted = false ∧ s.haltReason = .none ∧ s.pc.toNat = Config.codeBase ∧ s.sp = 0x00#8 ∧ s.console = [] ∧
    s.role = l.role ∧ s.rngSeed = l.rngSeed ∧ s.params = l.params ∧ s.gpr = d.gpr ∧ s.i = d.i ∧
    s.f.toNat = d.f.toNat % 16 ∧ s.rngDraws = 0 ∧
    (∀ (k : Nat) (hk : k < l.program.length), s.mem.read (Config.codeBase + k) = l.program[k]) ∧
    (∀ (r : Region), l.storageRegion = some r →
      ∀ (k : Nat) (hk : k < l.storageImage.length), s.mem.read (r.start + k) = l.storageImage[k]) ∧
    (∀ a : Word, ¬ (Config.codeBase ≤ a.toNat ∧ a.toNat < Config.codeBase + l.program.length) →
      (∀ r, l.storageRegion = some r → ¬ (r.start ≤ a.toNat ∧ a.toNat < r.start + l.storageImage.length)) →
      s.memByte a = (Memory.ofCells d.mem).read a.toNat) ∧
    (∀ (m : Byte) (o : Word), m.toNat < l.numAgents → o.toNat < l.mailboxSize →
      s.mbRead m o = (Memory.ofCells d.mailboxes).read (mailboxKey m o)) ∧
    ∀ a : Word, s.latch a = (Memory.ofCells d.keyLatch).read a.toNat

/-- 60_exceptions R128 and 70_reset R136 item 1. Two of the checks are the model's choices (log 12): the image's fit,
and the refusal of a MAILBOX_SIZE or NUM_AGENTS outside the ranges of 00_scope R7. -/
def Obligations.BadLaunchesAreRefused : Prop :=
  ∀ (l : Launch) (d : PowerOn),
    ((∃ s, construct l d = .ok s) ↔
      l.params.wf = true ∧ l.role.fits l.params = true ∧ l.rngSeed ≠ 0x00#8 ∧ l.imageFits = true) ∧
    ((∃ s, construct l d = .ok s) ∨ ∃ e, construct l d = .error e)

/-- The invariant the next statements keep; State.reset itself is in part the model's choice (log 1 to 6). -/
def Obligations.InvariantHoldsAtReset : Prop :=
  State.reset.Inv

/-- 70_reset R136 with 20_memory R38: what the host's checks and the placing of program and image establish. -/
def Obligations.InvariantHoldsAtConstruction : Prop :=
  ∀ (l : Launch) (d : PowerOn) (s : State), construct l d = .ok s → s.Inv

/-- An invariant of every step from every state (10_state R22, R26, R28; 20_memory R35, R38, R64). -/
def Obligations.EveryStepKeepsTheInvariant : Prop :=
  ∀ s t : State, s.Inv → step s = .next t → t.Inv

/-- 20_memory R64, R65 and 60_exceptions R132, R135: a run is one order of whole moves, and the store is shared. -/
def Obligations.EveryScenarioMoveKeepsTheInvariant : Prop :=
  ∀ (sc sc' : Scenario) (k : Nat) (m : HostMove),
    (∀ s ∈ sc.instances, (sc.sees s).Inv) →
    (∀ s ∈ sc.instances, ∀ s' ∈ sc.instances,
      s.params.numAgents = s'.params.numAgents ∧ s.params.mailboxSize = s'.params.mailboxSize) →
    sc.move k m = .next sc' →
    (∀ s ∈ sc'.instances, (sc'.sees s).Inv) ∧
    ∀ s ∈ sc'.instances, ∀ s' ∈ sc'.instances,
      s.params.numAgents = s'.params.numAgents ∧ s.params.mailboxSize = s'.params.mailboxSize

/-- 10_state R18, for every register code. -/
def Obligations.RegisterWriteThenRead : Prop :=
  ∀ (s : State) (r : Reg) (v : Word),
    (s.writeReg r v).readReg r =
      (match r with
        | .gpr _ => BitVec.ofNat 16 (v.toNat % 256)
        | .i => v
        | .sp => BitVec.ofNat 16 (v.toNat % 256)
        | .pc => v
        | .f => BitVec.ofNat 16 (v.toNat % 16)) ∧
    (r = .f → (s.writeReg r v).f.toNat = v.toNat % 16) ∧
    SameRegsBut [r] s (s.writeReg r v) ∧ OnlyRegs s (s.writeReg r v)

/-- 10_state R23 (what changes F), R21 (what changes SP) and 42_control_flow R102 (what changes PC), over all
instructions at once. That MOV and LDI write no flags is decision D8. -/
def Obligations.RegistersChangeOnlyAsNamed : Prop :=
  ∀ (i : Instr) (s t : State), exec i s = .next t → SameRegsBut (mayWrite i) s t

/-- 20_memory R36, R53 and R55. The premise on PUSH and CALL rules out a device region over the stack, which 20_memory
R38 forbids. -/
def Obligations.StoresReachedByFixedInstructions : Prop :=
  ∀ (i : Instr) (s t : State), exec i s = .next t →
    (¬ mayStore i → SameMem s t ∧ SameLatch s t) ∧
    ((∀ v a, i ≠ .gst v a) → SameMailboxes s t) ∧
    (¬ mayStore i → (∀ r, i ≠ .putc r) → SameConsole s t) ∧
    (s.Inv → (∀ addr12, i ≠ .st addr12) → (∀ r, i ≠ .putc r) → SameConsole s t ∧ SameLatch s t)

/-- 10_state R29: the role is immutable, and its only use is to pick the mailbox a GLD or GST reaches. The last two
clauses compare two executions with one seed: that both draw the same Rng byte is the model's choice (log 5). That
the arbiter's operand counts by its low byte is the spec's (decision D21). -/
def Obligations.RoleIsFixedAndOnlyPicksTheMailbox : Prop :=
  (∀ s t : State, step s = .next t → t.role = s.role) ∧
  (∀ (i : Instr) (s t : State) (role : Role), ¬ reachesMailbox i → exec i s = .next t →
    exec i { s with role := role } = .next { t with role := role }) ∧
  ∀ (i : Instr) (s t : State) (role : Role),
    (∀ v a, i = .gld v a ∨ i = .gst v a → targetMailbox role (s.readReg a) = targetMailbox s.role (s.readReg a)) →
    exec i s = .next t → exec i { s with role := role } = .next { t with role := role }

/-- 10_state R13: the parameters never change while an instance runs; 20_memory R38: the map is static. -/
def Obligations.ParametersNeverChange : Prop :=
  ∀ (ms : List HostMove) (s t : State), runMoves ms s = .next t → t.params = s.params ∧ t.rngSeed = s.rngSeed

/-- 10_state R31. One stream for both sources, without bound, is the spec's choice (decisions D19, D44). -/
def Obligations.ConsoleOnlyGrows : Prop :=
  ∀ (ms : List HostMove) (s t : State), runMoves ms s = .next t → ∃ bytes, t.console = s.console ++ bytes

/-- 10_state R25, which derives it: every W-port write of this ISA carries an 8-bit value. The premise is there because
the drawn reset value of I may be larger (log 13). -/
def Obligations.IndexRegisterStaysAByte : Prop :=
  ∀ s t : State, s.i.toNat ≤ 255 → step s = .next t → t.i.toNat ≤ 255

/-- 40_cycle R93. -/
def Obligations.NopDoesNothing : Prop :=
  decode 0x0000#16 = .ok .nop ∧
  (∀ w : Word, 0x0001 ≤ w.toNat → w.toNat ≤ 0x00FF → ∃ why, decode w = .error why) ∧
  (∀ s : State, exec .nop s = .next s) ∧
  ∀ s : State, s.fetches 0x0000#16 → step s = .next { s with pc := s.pc + 2 }

/-- 40_cycle R94 and 70_reset R140. The place of the code is the spec's choice (decision D29). -/
def Obligations.HaltRecordsItsCode : Prop :=
  (∀ code8 : Byte, decode (BitVec.ofNat 16 (0x0100 + code8.toNat)) = .ok (.halt code8)) ∧
  (∀ (code8 : Byte) (s : State), ∃ t, exec (.halt code8) s = .next t ∧
    t = { s with halted := true, haltReason := .halt code8 } ∧ t.endedNormally) ∧
  ∀ (code8 : Byte) (s : State), s.fetches (BitVec.ofNat 16 (0x0100 + code8.toNat)) →
    step s = .next { s with pc := s.pc + 2, halted := true, haltReason := .halt code8 }

/-- 46_system R121. The encoding and the register operand are the spec's choice (decision D18). -/
def Obligations.PutcAppendsALowByte : Prop :=
  (∀ r : Reg, decode (BitVec.ofNat 16 (0xB000 + 16 * r.code.toNat)) = .ok (.putc r)) ∧
  ∀ (r : Reg) (s : State),
    exec (.putc r) s = .next { s with console := s.console ++ [BitVec.ofNat 8 (s.readReg r).toNat] }

/-- 41_alu R98. That MOV writes no flags and that any register may stand in either field are the spec's choices
(decisions D8, D14). -/
def Obligations.MovCopiesTheLowByte : Prop :=
  (∀ d r : Reg, decode (BitVec.ofNat 16 (0x1000 + 16 * d.code.toNat + r.code.toNat)) = .ok (.mov d r)) ∧
  ∀ (rd rs : Reg) (s : State), ∃ t, exec (.mov rd rs) s = .next t ∧
    t.readReg rd = afterByteWrite rd (BitVec.ofNat 8 (s.readReg rs).toNat) ∧
    SameRegsBut [rd] s t ∧ OnlyRegs s t ∧
    (rd = .pc → s.halted = false → NextStepFetchFaults t)

/-- 41_alu R95, R96 and R99. Flag places, V = C, the full-width operands and F as destination are the spec's choices
(decisions D6, D7, D9, D10). -/
def Obligations.AddWritesSumAndFlags : Prop :=
  (∀ d r : Reg, decode (BitVec.ofNat 16 (0x1100 + 16 * d.code.toNat + r.code.toNat)) = .ok (.add d r)) ∧
  ∀ (rd rs : Reg) (s : State) (sum overflowed : Nat),
    sum = (s.readReg rd).toNat + (s.readReg rs).toNat → overflowed = (if 255 < sum then 1 else 0) →
    ∃ t, exec (.add rd rs) s = .next t ∧
    (rd ≠ .f → t.readReg rd = BitVec.ofNat 16 (sum % 256)) ∧
    t.f.toNat = (if sum % 256 = 0 then 1 else 0) + 2 * overflowed +
      (if 128 ≤ sum % 256 then 4 else 0) + 8 * overflowed ∧
    SameRegsBut [rd, .f] s t ∧ OnlyRegs s t ∧
    (rd = .pc → s.halted = false → NextStepFetchFaults t)

/-- 41_alu R95, R96 and R100. Flag places, V = C, the full-width operands and F as destination are the spec's choices
(decisions D6, D7, D9, D10). -/
def Obligations.SubWritesDifferenceAndFlags : Prop :=
  (∀ d r : Reg, decode (BitVec.ofNat 16 (0x1200 + 16 * d.code.toNat + r.code.toNat)) = .ok (.sub d r)) ∧
  ∀ (rd rs : Reg) (s : State) (diff overflowed : Nat),
    diff = (s.readReg rd).toNat + 65536 - (s.readReg rs).toNat →
    overflowed = (if (s.readReg rd).toNat < (s.readReg rs).toNat then 1 else 0) →
    ∃ t, exec (.sub rd rs) s = .next t ∧
    (rd ≠ .f → t.readReg rd = BitVec.ofNat 16 (diff % 256)) ∧
    t.f.toNat = (if diff % 256 = 0 then 1 else 0) + 2 * overflowed +
      (if 128 ≤ diff % 256 then 4 else 0) + 8 * overflowed ∧
    SameRegsBut [rd, .f] s t ∧ OnlyRegs s t ∧
    (rd = .pc → s.halted = false → NextStepFetchFaults t)

/-- 41_alu R101. That LDI writes no flags is the spec's choice (decision D8). -/
def Obligations.LdiWritesItsImmediate : Prop :=
  (∀ (d : Reg) (imm8 : Byte),
    decode (BitVec.ofNat 16 (0x2000 + 256 * d.code.toNat + imm8.toNat)) = .ok (.ldi d imm8)) ∧
  ∀ (rd : Reg) (imm8 : Byte) (s : State), ∃ t, exec (.ldi rd imm8) s = .next t ∧
    t.readReg rd = afterByteWrite rd imm8 ∧
    SameRegsBut [rd] s t ∧ OnlyRegs s t ∧
    (rd = .pc → s.halted = false → NextStepFetchFaults t)

/-- 42_control_flow R105, with its corner cases. -/
def Obligations.JmpSetsPc : Prop :=
  (∀ addr12 : BitVec 12, decode (BitVec.ofNat 16 (0x3000 + addr12.toNat)) = .ok (.jmp addr12)) ∧
  (∀ (addr12 : BitVec 12) (s : State), ∃ t, exec (.jmp addr12) s = .next t ∧
    t = { s with pc := t.pc } ∧ t.pc.toNat = addr12.toNat ∧
    (s.halted = false → addr12.toNat < Config.codeBase ∨ s.params.progEnd ≤ addr12.toNat →
      NextStepFetchFaults t)) ∧
  ∀ (addr12 : BitVec 12) (s : State) (n : Nat), s.pc.toNat = addr12.toNat →
    s.fetches (BitVec.ofNat 16 (0x3000 + addr12.toNat)) → runMoves (List.replicate n .step) s = .next s

/-- 42_control_flow R106. That F.Z is bit 0 of F is the spec's choice (decision D6; log 16). -/
def Obligations.JzJumpsOnZero : Prop :=
  (∀ addr12 : BitVec 12, decode (BitVec.ofNat 16 (0x4000 + addr12.toNat)) = .ok (.jz addr12)) ∧
  ∀ (addr12 : BitVec 12) (s : State), ∃ t, exec (.jz addr12) s = .next t ∧
    t = { s with pc := t.pc } ∧
    (s.f.toNat % 2 = 1 → t.pc.toNat = addr12.toNat) ∧ (s.f.toNat % 2 = 0 → t.pc = s.pc)

/-- 42_control_flow R107. That F.Z is bit 0 of F is the spec's choice (decision D6; log 16). -/
def Obligations.JnzJumpsOnNonzero : Prop :=
  (∀ addr12 : BitVec 12, decode (BitVec.ofNat 16 (0x5000 + addr12.toNat)) = .ok (.jnz addr12)) ∧
  ∀ (addr12 : BitVec 12) (s : State), ∃ t, exec (.jnz addr12) s = .next t ∧
    t = { s with pc := t.pc } ∧
    (s.f.toNat % 2 = 0 → t.pc.toNat = addr12.toNat) ∧ (s.f.toNat % 2 = 1 → t.pc = s.pc)

/-- 42_control_flow R108. Big-endian order of the pushed address is written in the rule; it is the spec's choice
(decision D1). -/
def Obligations.CallPushesAndJumps : Prop :=
  (∀ addr12 : BitVec 12, decode (BitVec.ofNat 16 (0x6000 + addr12.toNat)) = .ok (.call addr12)) ∧
  (∀ (addr12 : BitVec 12) (s : State), s.Inv → s.sp.toNat + 2 < Config.stackSize →
    ∃ t, exec (.call addr12) s = .next t ∧
      (stackSlot (s.sp + 2)).toNat = 256 - (s.sp.toNat + 2) ∧
      (t.memByte (stackSlot (s.sp + 2))).toNat = s.pc.toNat / 256 ∧
      (t.memByte (stackSlot (s.sp + 2) + 1)).toNat = s.pc.toNat % 256 ∧
      SameMemBut [stackSlot (s.sp + 2), stackSlot (s.sp + 2) + 1] s t ∧
      t.sp.toNat = s.sp.toNat + 2 ∧ t.pc.toNat = addr12.toNat + 0x0100 ∧
      SameRegsBut [.sp, .pc] s t ∧ SameMailboxes s t ∧ SameLatch s t ∧ SameRng s t ∧ SameConsole s t ∧
      SameControl s t ∧ (s.halted = false → s.params.progEnd ≤ t.pc.toNat → NextStepFetchFaults t)) ∧
  ∀ (addr12 : BitVec 12) (s : State), Config.stackSize ≤ s.sp.toNat + 2 →
    exec (.call addr12) s = .next { s with halted := true, haltReason := .stackOverflow }

/-- 42_control_flow R109. -/
def Obligations.RetPopsThePc : Prop :=
  decode 0x7000#16 = .ok .ret ∧
  (∀ s : State, s.Inv → 2 ≤ s.sp.toNat →
    ∃ t, exec .ret s = .next t ∧
      t.pc.toNat = 256 * (s.mem.read (256 - s.sp.toNat)).toNat + (s.mem.read (257 - s.sp.toNat)).toNat ∧
      t.sp.toNat = s.sp.toNat - 2 ∧ SameRegsBut [.sp, .pc] s t ∧ OnlyRegs s t ∧
      (s.halted = false → t.pc.toNat < Config.codeBase ∨ s.params.progEnd ≤ t.pc.toNat → NextStepFetchFaults t)) ∧
  ∀ s : State, s.sp.toNat < 2 → exec .ret s = .next { s with halted := true, haltReason := .stackUnderflow }

/-- The source's call and return round trip (95_test_vectors L1-4), at dispatch level (90_conflicts C1), for every state
and address. -/
def Obligations.RetUndoesCall : Prop :=
  ∀ (addr12 : BitVec 12) (s : State), s.Inv → s.sp.toNat + 2 < Config.stackSize →
    ∃ t u, exec (.call addr12) s = .next t ∧ exec .ret t = .next u ∧ SameRegsBut [] s u ∧ SameControl s u

/-- 43_stack R110. -/
def Obligations.PushStoresALowByte : Prop :=
  (∀ r : Reg, decode (BitVec.ofNat 16 (0x7100 + 16 * r.code.toNat)) = .ok (.push r)) ∧
  (∀ (r : Reg) (s : State), s.Inv → s.sp.toNat + 1 < Config.stackSize →
    ∃ t, exec (.push r) s = .next t ∧
      (stackSlot (s.sp + 1)).toNat = 256 - (s.sp.toNat + 1) ∧
      t.memByte (stackSlot (s.sp + 1)) = BitVec.ofNat 8 (s.readReg r).toNat ∧
      SameMemBut [stackSlot (s.sp + 1)] s t ∧ t.sp.toNat = s.sp.toNat + 1 ∧
      SameRegsBut [.sp] s t ∧ SameMailboxes s t ∧ SameLatch s t ∧ SameRng s t ∧ SameConsole s t ∧ SameControl s t) ∧
  ∀ (r : Reg) (s : State), s.sp.toNat = 255 →
    exec (.push r) s = .next { s with halted := true, haltReason := .stackOverflow }

/-- 43_stack R111. The order of the two writes in POP SP is the spec's choice (decision D34). -/
def Obligations.PopLoadsAByte : Prop :=
  (∀ r : Reg, decode (BitVec.ofNat 16 (0x7200 + 16 * r.code.toNat)) = .ok (.pop r)) ∧
  (∀ (r : Reg) (s : State), s.Inv → 1 ≤ s.sp.toNat →
    ∃ t, exec (.pop r) s = .next t ∧
      t.readReg r = afterByteWrite r (s.mem.read (256 - s.sp.toNat)) ∧
      (r ≠ .sp → t.sp.toNat = s.sp.toNat - 1) ∧ SameRegsBut [r, .sp] s t ∧ OnlyRegs s t ∧
      (r = .pc → s.halted = false → NextStepFetchFaults t)) ∧
  ∀ (r : Reg) (s : State), s.sp.toNat = 0 →
    exec (.pop r) s = .next { s with halted := true, haltReason := .stackUnderflow }

/-- 43_stack R110 and R111 together: last in, first out. -/
def Obligations.PopUndoesPush : Prop :=
  ∀ (r r' : Reg) (s : State), s.Inv → s.sp.toNat + 1 < Config.stackSize →
    ∃ t u, exec (.push r) s = .next t ∧ exec (.pop r') t = .next u ∧
      u.readReg r' = afterByteWrite r' (BitVec.ofNat 8 (s.readReg r).toNat) ∧
      (r' ≠ .sp → u.sp = s.sp) ∧ SameRegsBut [r', .sp] s u

/-- The derived last sentence of 20_memory R58: boundary halts, not wrapping. -/
def Obligations.StackStaysInItsRegion : Prop :=
  ∀ (i : Instr) (s t : State), s.Inv → (∃ addr12, i = .call addr12) ∨ (∃ r, i = .push r) → exec i s = .next t →
    ∀ a : Word, a.toNat = 0 ∨ 256 ≤ a.toNat → t.memByte a = s.memByte a

/-- 20_memory R40, under constraint 2 of R38. -/
def Obligations.EachAddressHasOneOwner : Prop :=
  ∀ (p : Params) (a : Word), p.regionMapOk = true →
    (∃ r ∈ p.regionMap, (r.start ≤ a.toNat ∧ a.toNat < r.stop) ∧ owner p.regionMap a = some r.kind ∧
      ∀ q ∈ p.regionMap, q.start ≤ a.toNat ∧ a.toNat < q.stop → q = r) ∨
    ((∀ r ∈ p.regionMap, ¬ (r.start ≤ a.toNat ∧ a.toNat < r.stop)) ∧ owner p.regionMap a = none)

/-- 20_memory R38, constraint 3, as the stack unit and the fetch rely on it. The constraint is the spec's choice
(decision D37). -/
def Obligations.StackAndCodeArePlain : Prop :=
  ∀ (p : Params) (a : Word), p.regionMapOk = true →
    a.toNat < Config.stackSize ∨ (Config.codeBase ≤ a.toNat ∧ a.toNat < p.progEnd) → owner p.regionMap a = none

/-- 44_load_store R113 through the router of 20_memory R41. That an Rng byte is the free value `Config.rngByte` of the
seed and the counter, which rises by one, is the model's choice (log 5): the statement says which draw it is, not
what it is. R0, and what Console, Storage and Keyboard reads answer, are the spec's choices (decisions D16, D19,
D40, D39). -/
def Obligations.LdLoadsThroughTheRouter : Prop :=
  (∀ addr12 : BitVec 12, decode (BitVec.ofNat 16 (0x8000 + addr12.toNat)) = .ok (.ld addr12)) ∧
  ∀ (addr12 : BitVec 12) (s : State) (a : Word), a.toNat = addr12.toNat →
    ∃ t, exec (.ld addr12) s = .next t ∧
      (s.ownerOf a ≠ some .rng → s.ownerOf a ≠ some .keyboard →
        t.readReg (.gpr 0) = zext16 (s.memByte a) ∧ SameRng s t) ∧
      (s.ownerOf a = some .rng →
        t.readReg (.gpr 0) = zext16 (Config.rngByte s.rngSeed s.rngDraws) ∧ t.rngSeed = s.rngSeed ∧
          t.rngDraws = s.rngDraws + 1) ∧
      (s.ownerOf a = some .keyboard → t.readReg (.gpr 0) = zext16 (s.latch a) ∧ SameRng s t) ∧
      SameRegsBut [.gpr 0] s t ∧ SameMem s t ∧ SameMailboxes s t ∧ SameLatch s t ∧ SameConsole s t ∧ SameControl s t

/-- 44_load_store R114 through the router of 20_memory R41, with its corner cases. R0, and what Console, Storage, Rng
and Keyboard writes do (20_memory R44 to R47), are the spec's choices (decisions D16, D19, D40, D38, D39; log 16). -/
def Obligations.StStoresThroughTheRouter : Prop :=
  (∀ addr12 : BitVec 12, decode (BitVec.ofNat 16 (0x9000 + addr12.toNat)) = .ok (.st addr12)) ∧
  ∀ (addr12 : BitVec 12) (s : State) (a : Word) (v : Byte), s.Inv → a.toNat = addr12.toNat →
    v = BitVec.ofNat 8 (s.readReg (.gpr 0)).toNat →
    ∃ t, exec (.st addr12) s = .next t ∧
      SameRegsBut [] s t ∧ SameMailboxes s t ∧ SameRng s t ∧ SameControl s t ∧
      (s.ownerOf a = none ∨ s.ownerOf a = some .frameBuffer ∨ s.ownerOf a = some .storage →
        t.memByte a = v ∧ SameMemBut [a] s t ∧ SameConsole s t ∧ SameLatch s t) ∧
      (s.ownerOf a = some .console →
        t.memByte a = v ∧ SameMemBut [a] s t ∧ t.console = s.console ++ [v] ∧ SameLatch s t) ∧
      (s.ownerOf a = some .rng → t = s) ∧
      (s.ownerOf a = some .keyboard →
        t.latch a = v ∧ (∀ b, b ≠ a → t.latch b = s.latch b) ∧ SameMem s t ∧ SameConsole s t) ∧
      (s.ownerOf a = none → ∀ p : Word,
        t.fetchWord p = wordOfBytes (if p = a then v else s.memByte p) (if p + 1 = a then v else s.memByte (p + 1)))

/-- 20_memory R42 to R45 and R47: reads return what was last written. Console read-back, storage and the program-written
latch are the spec's choices (decisions D19, D40, D39). -/
def Obligations.LdReadsBackWhatStStored : Prop :=
  ∀ (addr12 : BitVec 12) (s : State), s.Inv → s.ownerOf (absAddr addr12) ≠ some .rng →
    ∃ t, exec (.st addr12) s = .next t ∧
      ∀ x : Byte, ∃ u, exec (.ld addr12) (t.writeReg (.gpr 0) (zext16 x)) = .next u ∧ SameRegsBut [.gpr 0] s u ∧
        u.readReg (.gpr 0) = zext16 (BitVec.ofNat 8 (s.readReg (.gpr 0)).toNat)

/-- 20_memory R68: a store into the code region is seen by the next fetch at once, which the spec derives (decision
D32). -/
def Obligations.SelfModifiedWordRunsAtOnce : Prop :=
  ∀ (addr12 : BitVec 12) (s : State) (v : Byte) (i : Instr), s.Inv → s.halted = false →
    Config.codeBase ≤ s.pc.toNat → s.pc.toNat + 1 < s.params.progEnd → addr12.toNat = s.pc.toNat + 1 →
    v = BitVec.ofNat 8 (s.readReg (.gpr 0)).toNat → decode (wordOfBytes (s.memByte s.pc) v) = .ok i →
    ∃ t, exec (.st addr12) s = .next t ∧ step t = exec i { t with pc := t.pc + 2 }

/-- 20_memory R43 and the source's property L1-7. The bytes per row are an open parameter (decision D41): the statement
holds for each. -/
def Obligations.FrameBufferStoreSetsItsPixels : Prop :=
  ∀ (addr12 : BitVec 12) (s : State) (fb : Region) (k y : Nat), s.Inv → fb ∈ s.params.regionMap →
    fb.kind = .frameBuffer → k < s.params.fbBytesPerRow →
    addr12.toNat = fb.start + y * s.params.fbBytesPerRow + k → addr12.toNat < fb.stop →
    ∃ t, exec (.st addr12) s = .next t ∧
      (∀ j, j < 8 → t.pixel fb (8 * k + j) y = (s.readReg (.gpr 0)).getLsbD (7 - j)) ∧
      (k = 0 → y = 0 → s.readReg (.gpr 0) = 0x0080#16 →
        t.pixel fb 0 0 = true ∧ ∀ x, 1 ≤ x → x ≤ 7 → t.pixel fb x 0 = false)

/-- 20_memory R47 and 60_exceptions R135. The per-address latch is the spec's choice (decision D39; log 4). -/
def Obligations.HostKeyReachesTheProgram : Prop :=
  ∀ (addr12 : BitVec 12) (s : State) (v : Byte), s.Inv →
    (s.ownerOf (absAddr addr12) = some .keyboard →
      (∃ latch, s.hostKey (absAddr addr12) v = { s with keyLatch := latch }) ∧
      (∀ b, b ≠ absAddr addr12 → (s.hostKey (absAddr addr12) v).latch b = s.latch b) ∧
      ∃ t, exec (.ld addr12) (s.hostKey (absAddr addr12) v) = .next t ∧ t.readReg (.gpr 0) = zext16 v) ∧
    (s.ownerOf (absAddr addr12) ≠ some .keyboard → s.hostKey (absAddr addr12) v = s)

/-- 45_global R115 and R118. The encoding, the geometry, the operand's low byte and the order of the checks are the
spec's choices (decisions D17, D20, D21, D43). -/
def Obligations.GldLoadsFromItsMailbox : Prop :=
  (∀ v a : Reg, decode (BitVec.ofNat 16 (0xA000 + 16 * v.code.toNat + a.code.toNat)) = .ok (.gld v a)) ∧
  ∀ (rv ra : Reg) (s : State) (m : Byte), m = targetMailbox s.role (s.readReg ra) →
    (m.toNat < s.params.numAgents → s.i.toNat < s.params.mailboxSize →
      ∃ t, exec (.gld rv ra) s = .next t ∧ t.readReg rv = afterByteWrite rv (s.mbRead m s.i) ∧
        SameRegsBut [rv] s t ∧ OnlyRegs s t ∧ (rv = .pc → s.halted = false → NextStepFetchFaults t)) ∧
    (s.params.numAgents ≤ m.toNat →
      exec (.gld rv ra) s = .next { s with halted := true, haltReason := .addressFault (.mailbox m) }) ∧
    (m.toNat < s.params.numAgents → s.params.mailboxSize ≤ s.i.toNat →
      exec (.gld rv ra) s = .next { s with halted := true, haltReason := .addressFault (.mailboxOffset s.i) })

/-- 45_global R115 and R119. The encoding, the geometry, the operand's low byte and the order of the checks are the
spec's choices (decisions D17, D20, D21, D43). -/
def Obligations.GstStoresToItsMailbox : Prop :=
  (∀ v a : Reg, decode (BitVec.ofNat 16 (0xA100 + 16 * v.code.toNat + a.code.toNat)) = .ok (.gst v a)) ∧
  ∀ (rv ra : Reg) (s : State) (m : Byte), m = targetMailbox s.role (s.readReg ra) →
    (s.Inv → m.toNat < s.params.numAgents → s.i.toNat < s.params.mailboxSize →
      ∃ t, exec (.gst rv ra) s = .next t ∧ t.mbRead m s.i = BitVec.ofNat 8 (s.readReg rv).toNat ∧
        (∀ m' o', (m', o') ≠ (m, s.i) → t.mbRead m' o' = s.mbRead m' o') ∧
        SameRegsBut [] s t ∧ SameMem s t ∧ SameLatch s t ∧ SameRng s t ∧ SameConsole s t ∧ SameControl s t) ∧
    (s.params.numAgents ≤ m.toNat →
      exec (.gst rv ra) s = .next { s with halted := true, haltReason := .addressFault (.mailbox m) }) ∧
    (m.toNat < s.params.numAgents → s.params.mailboxSize ≤ s.i.toNat →
      exec (.gst rv ra) s = .next { s with halted := true, haltReason := .addressFault (.mailboxOffset s.i) })

/-- 45_global R116, the isolation guarantee: the access, the absence of any other window, and both directions of
isolation over runs of one instance. R116 itself states the first two clauses. The other two run one instance alone,
with no other instance writing the store (the model's choice, log 3), and the last compares two runs with one seed,
which draw the same Rng bytes (the model's choice, log 5). -/
def Obligations.AgentReachesItsOwnMailboxOnly : Prop :=
  (∀ (s : State) (id : Byte) (ra : Reg) (target : Byte × Word), s.role = .agent id →
    s.mailboxTarget ra = .ok target → target.1 = id) ∧
  (∀ (i : Instr) (s t : State) (store : Memory), ¬ reachesMailbox i → exec i s = .next t →
    t.mailboxes = s.mailboxes ∧ exec i { s with mailboxes := store } = .next { t with mailboxes := store }) ∧
  (∀ (ms : List HostMove) (s t : State) (id : Byte), s.role = .agent id → runMoves ms s = .next t →
    ∀ (m : Byte) (o : Word), m ≠ id → t.mbRead m o = s.mbRead m o) ∧
  ∀ (ms : List HostMove) (s t : State) (id : Byte) (store : Memory), s.role = .agent id →
    s.mailboxes.wf = true → store.wf = true → (∀ o, store.read (mailboxKey id o) = s.mbRead id o) →
    runMoves ms s = .next t →
    ∃ store', runMoves ms { s with mailboxes := store } = .next { t with mailboxes := store' } ∧
      ∀ o, store'.read (mailboxKey id o) = t.mbRead id o

/-- The source's mailbox isolation property (95_test_vectors L1-6) with 20_memory R64 and R65. The shared store outside
every main space is the spec's choice (decision D22). -/
def Obligations.MailboxCarriesAByteBetweenInstances : Prop :=
  ∀ (arbiter agent : State) (m : Byte) (rv ra rw rx : Reg), arbiter.Inv → arbiter.role = .arbiter →
    agent.role = .agent m → (arbiter.readReg ra).toNat % 256 = m.toNat → arbiter.i = agent.i →
    arbiter.params.numAgents = agent.params.numAgents → arbiter.params.mailboxSize = agent.params.mailboxSize →
    m.toNat < agent.params.numAgents → agent.i.toNat < agent.params.mailboxSize →
    ∃ t u, exec (.gst rv ra) arbiter = .next t ∧
      exec (.gld rw rx) { agent with mailboxes := t.mailboxes } = .next u ∧
      u.readReg rw = afterByteWrite rw (BitVec.ofNat 8 (arbiter.readReg rv).toNat)

/-- 20_memory R64, R65 and 60_exceptions R132: one order of whole moves over one shared store. The order is the host's
(decision D31). -/
def Obligations.ScenarioMoveTouchesOneInstance : Prop :=
  ∀ (sc : Scenario) (k : Nat) (m : HostMove) (s : State), sc.instances[k]? = some s →
    ∃ t sc', hostMove m { s with mailboxes := sc.mailboxes } = .next t ∧ sc.move k m = .next sc' ∧
      sc'.instances[k]? = some t ∧ sc'.mailboxes = t.mailboxes ∧
      ∀ j, j ≠ k → sc'.instances[j]? = sc.instances[j]?
end

