-- ==== Sys2Proof/Laws/Memory.lean ====
section
/-! SUPPORT. The laws of a byte store: reading after writing, and the canonical form. -/

namespace Sys2Proof.Machine

/-- Every address listed in `m` is above `k`. -/
def Memory.above (m : Memory) (k : Nat) : Prop := ∀ c ∈ m, k < c.1

theorem read_write_same (m : Memory) (a : Nat) (v : Byte) (hm : m.Pairwise (fun c d => c.1 < d.1)) :
    (m.write a v).read a = v := by
  induction m with
  | nil => simp only [Memory.write]; split <;> simp_all [Memory.read]
  | cons c rest ih =>
    obtain ⟨k, b⟩ := c
    have hrest := (List.pairwise_cons.1 hm)
    have hread : ∀ x, x ≤ k → Memory.read rest x = Memory.unlisted := by
      intro x hx
      have : ∀ c ∈ rest, x < c.1 := fun c hc => lt_of_le_of_lt hx (hrest.1 c hc)
      clear ih hm hrest
      induction rest with
      | nil => rfl
      | cons d ds ihd =>
        simp only [Memory.read]
        rw [if_neg (ne_of_lt (this d (by simp)))]
        exact ihd fun c hc => this c (by simp [hc])
    simp only [Memory.write]
    split
    · next hlt =>
      split
      · next hv => simp [Memory.read, ne_of_lt hlt, hread a (le_of_lt hlt), hv]
      · simp [Memory.read]
    · split
      · next heq =>
        split
        · next hv => rw [hread a (le_of_eq heq), hv]
        · simp [Memory.read]
      · next hne => simp [Memory.read, hne, ih hrest.2]

theorem read_write_other (m : Memory) (a b : Nat) (v : Byte) (h : b ≠ a) : (m.write a v).read b = m.read b := by
  induction m with
  | nil => simp only [Memory.write]; split <;> simp [Memory.read, h]
  | cons c rest ih =>
    obtain ⟨k, x⟩ := c
    simp only [Memory.write]
    split
    · split <;> simp [Memory.read, h]
    · split
      · next heq => subst heq; split <;> simp [Memory.read, h]
      · simp [Memory.read, ih]

/-- A property of every cell is kept by a write of a cell that has it. -/
theorem write_all (p : Host.Cell → Prop) (m : Memory) (a : Nat) (v : Byte) (hm : ∀ c ∈ m, p c)
    (hv : v ≠ Memory.unlisted → p (a, v)) : ∀ c ∈ m.write a v, p c := by
  induction m with
  | nil => simp only [Memory.write]; split <;> simp_all
  | cons c rest ih =>
    obtain ⟨k, x⟩ := c
    have ih := ih fun c hc => hm c (by simp [hc])
    have h0 := hm (k, x) (by simp)
    have hr : ∀ c ∈ rest, p c := fun c hc => hm c (by simp [hc])
    simp only [Memory.write]
    split
    · split
      · exact hm
      · next hne =>
        intro c hc
        rcases List.mem_cons.1 hc with rfl | hc
        · exact hv hne
        · exact hm c hc
    · split
      · split
        · exact hr
        · next hne =>
          intro c hc
          rcases List.mem_cons.1 hc with rfl | hc
          · exact hv hne
          · exact hr c hc
      · intro c hc
        rcases List.mem_cons.1 hc with rfl | hc
        · exact h0
        · exact ih c hc

theorem wf_iff (m : Memory) :
    m.wf = true ↔ m.Pairwise (fun c d => c.1 < d.1) ∧ ∀ c ∈ m, c.2 ≠ Memory.unlisted := by
  simp [Memory.wf]

theorem write_pairwise (m : Memory) (a : Nat) (v : Byte) (hm : m.Pairwise (fun c d => c.1 < d.1)) :
    (m.write a v).Pairwise (fun c d => c.1 < d.1) := by
  induction m with
  | nil => simp only [Memory.write]; split <;> simp
  | cons c rest ih =>
    obtain ⟨k, x⟩ := c
    obtain ⟨hk, hr⟩ := List.pairwise_cons.1 hm
    simp only [Memory.write]
    split
    · next hlt =>
      split
      · exact hm
      · refine List.pairwise_cons.2 ⟨fun c hc => ?_, hm⟩
        rcases List.mem_cons.1 hc with rfl | hc
        · exact hlt
        · exact lt_trans hlt (hk c hc)
    · split
      · next heq =>
        split
        · exact hr
        · exact List.pairwise_cons.2 ⟨fun c hc => heq ▸ hk c hc, hr⟩
      · next hnlt hne =>
        exact List.pairwise_cons.2 ⟨write_all _ rest a v hk fun _ => by simp; omega, ih hr⟩

/-- A write keeps the canonical form. -/
theorem write_wf (m : Memory) (a : Nat) (v : Byte) (hm : m.wf = true) : (m.write a v).wf = true := by
  rw [wf_iff] at hm ⊢
  exact ⟨write_pairwise m a v hm.1, write_all _ m a v hm.2 id⟩

theorem read_write_same_wf (m : Memory) (a : Nat) (v : Byte) (hm : m.wf = true) : (m.write a v).read a = v :=
  read_write_same m a v ((wf_iff m).1 hm).1

theorem write_below (m : Memory) (a : Nat) (v : Byte) (n : Nat) (hm : m.below n = true) (ha : a < n) :
    (m.write a v).below n = true := by
  simp only [Memory.below, List.all_eq_true, decide_eq_true_eq] at hm ⊢
  exact write_all _ m a v hm fun _ => ha

theorem writeList_wf (bs : List Byte) (m : Memory) (a : Nat) (hm : m.wf = true) : (m.writeList a bs).wf = true := by
  induction bs generalizing m a with
  | nil => exact hm
  | cons b bs ih => exact ih _ _ (write_wf m a b hm)

theorem writeList_below (bs : List Byte) (m : Memory) (a n : Nat) (hm : m.below n = true) (ha : a + bs.length ≤ n) :
    (m.writeList a bs).below n = true := by
  induction bs generalizing m a with
  | nil => exact hm
  | cons b bs ih =>
    simp only [List.length_cons] at ha
    exact ih _ _ (write_below m a b n hm (by omega)) (by omega)

/-- A byte outside the range a sequence is written to reads as before. -/
theorem read_writeList_other (bs : List Byte) (m : Memory) (a x : Nat) (h : x < a ∨ a + bs.length ≤ x) :
    (m.writeList a bs).read x = m.read x := by
  induction bs generalizing m a with
  | nil => rfl
  | cons b bs ih =>
    simp only [List.length_cons] at h
    rw [Memory.writeList, ih _ _ (by omega), read_write_other _ _ _ _ (by omega)]

/-- The bytes of a sequence read back at their addresses. -/
theorem read_writeList_same (bs : List Byte) (m : Memory) (a k : Nat) (hk : k < bs.length) (hm : m.wf = true) :
    (m.writeList a bs).read (a + k) = bs[k] := by
  induction bs generalizing m a k with
  | nil => simp at hk
  | cons b bs ih =>
    rw [Memory.writeList]
    match k with
    | 0 => rw [read_writeList_other _ _ _ _ (by omega)]; exact read_write_same_wf m a b hm
    | k + 1 =>
      have := ih (m.write a b) (a + 1) k (by simpa using hk) (write_wf m a b hm)
      simpa [Nat.add_assoc, Nat.add_comm 1 k] using this

theorem ofCells_keeps (p : Memory → Prop) (cells : List Host.Cell) (h0 : p [])
    (hstep : ∀ m, p m → ∀ c ∈ cells, p (m.write c.1 c.2)) : p (Memory.ofCells cells) := by
  unfold Memory.ofCells
  generalize ([] : Memory) = m at h0
  induction cells generalizing m with
  | nil => exact h0
  | cons c cs ih => exact ih (fun m hm d hd => hstep m hm d (by simp [hd])) _ (hstep m h0 c (by simp))

theorem ofCells_wf (cells : List Host.Cell) : (Memory.ofCells cells).wf = true :=
  ofCells_keeps (fun m => m.wf = true) cells rfl fun m hm c _ => write_wf m c.1 c.2 hm

/-- Dropping cells at other addresses does not change what an address reads as. -/
theorem read_ofCells_filter (keep : Host.Cell → Bool) (cells : List Host.Cell) (a : Nat)
    (ha : ∀ c ∈ cells, c.1 = a → keep c = true) :
    (Memory.ofCells (cells.filter keep)).read a = (Memory.ofCells cells).read a := by
  have h : ∀ m m' : Memory, m.wf = true → m'.wf = true → m.read a = m'.read a →
      Memory.read ((cells.filter keep).foldl (fun m c => m.write c.1 c.2) m) a =
        Memory.read (cells.foldl (fun m c => m.write c.1 c.2) m') a := by
    induction cells with
    | nil => exact fun _ _ _ _ h => h
    | cons c cs ih =>
      intro m m' hm hm' h
      have ih := ih fun d hd => ha d (by simp [hd])
      by_cases hc : c.1 = a
      · have hk := ha c (by simp) hc
        simp only [List.filter_cons, hk, if_true, List.foldl_cons]
        refine ih _ _ (write_wf _ _ _ hm) (write_wf _ _ _ hm') ?_
        rw [hc, read_write_same_wf _ _ _ hm, read_write_same_wf _ _ _ hm']
      · have hc' : a ≠ c.1 := fun e => hc e.symm
        by_cases hk : keep c = true
        · simp only [List.filter_cons, hk, if_true, List.foldl_cons]
          refine ih _ _ (write_wf _ _ _ hm) (write_wf _ _ _ hm') ?_
          rw [read_write_other _ _ _ _ hc', read_write_other _ _ _ _ hc', h]
        · simp only [List.filter_cons, hk, List.foldl_cons]
          refine ih _ _ hm (write_wf _ _ _ hm') ?_
          rw [read_write_other _ _ _ _ hc', h]
  exact h [] [] rfl rfl rfl

end Sys2Proof.Machine
end

