-- ==== Sys2Proof/Laws/State.lean ====
section
/-! SUPPORT. What each update of the state leaves in each field, so that no proof unfolds an update. -/

namespace Sys2Proof.Machine

variable (s : State)

/-! ### `haltWith` -/

@[simp] theorem haltWith_gpr (r : HaltReason) : (s.haltWith r).gpr = s.gpr := rfl
@[simp] theorem haltWith_i (r : HaltReason) : (s.haltWith r).i = s.i := rfl
@[simp] theorem haltWith_sp (r : HaltReason) : (s.haltWith r).sp = s.sp := rfl
@[simp] theorem haltWith_pc (r : HaltReason) : (s.haltWith r).pc = s.pc := rfl
@[simp] theorem haltWith_f (r : HaltReason) : (s.haltWith r).f = s.f := rfl
@[simp] theorem haltWith_halted (r : HaltReason) : (s.haltWith r).halted = true := rfl
@[simp] theorem haltWith_haltReason (r : HaltReason) : (s.haltWith r).haltReason = r := rfl
@[simp] theorem haltWith_role (r : HaltReason) : (s.haltWith r).role = s.role := rfl
@[simp] theorem haltWith_mem (r : HaltReason) : (s.haltWith r).mem = s.mem := rfl
@[simp] theorem haltWith_console (r : HaltReason) : (s.haltWith r).console = s.console := rfl
@[simp] theorem haltWith_mailboxes (r : HaltReason) : (s.haltWith r).mailboxes = s.mailboxes := rfl
@[simp] theorem haltWith_rngSeed (r : HaltReason) : (s.haltWith r).rngSeed = s.rngSeed := rfl
@[simp] theorem haltWith_rngDraws (r : HaltReason) : (s.haltWith r).rngDraws = s.rngDraws := rfl
@[simp] theorem haltWith_keyLatch (r : HaltReason) : (s.haltWith r).keyLatch = s.keyLatch := rfl
@[simp] theorem haltWith_params (r : HaltReason) : (s.haltWith r).params = s.params := rfl

/-! ### `writeFlags` -/

@[simp] theorem writeFlags_gpr (z c n v : Bool) : (s.writeFlags z c n v).gpr = s.gpr := rfl
@[simp] theorem writeFlags_i (z c n v : Bool) : (s.writeFlags z c n v).i = s.i := rfl
@[simp] theorem writeFlags_sp (z c n v : Bool) : (s.writeFlags z c n v).sp = s.sp := rfl
@[simp] theorem writeFlags_pc (z c n v : Bool) : (s.writeFlags z c n v).pc = s.pc := rfl
@[simp] theorem writeFlags_f (z c n v : Bool) : (s.writeFlags z c n v).f = packFlags z c n v := rfl
@[simp] theorem writeFlags_halted (z c n v : Bool) : (s.writeFlags z c n v).halted = s.halted := rfl
@[simp] theorem writeFlags_haltReason (z c n v : Bool) : (s.writeFlags z c n v).haltReason = s.haltReason := rfl
@[simp] theorem writeFlags_role (z c n v : Bool) : (s.writeFlags z c n v).role = s.role := rfl
@[simp] theorem writeFlags_mem (z c n v : Bool) : (s.writeFlags z c n v).mem = s.mem := rfl
@[simp] theorem writeFlags_console (z c n v : Bool) : (s.writeFlags z c n v).console = s.console := rfl
@[simp] theorem writeFlags_mailboxes (z c n v : Bool) : (s.writeFlags z c n v).mailboxes = s.mailboxes := rfl
@[simp] theorem writeFlags_rngSeed (z c n v : Bool) : (s.writeFlags z c n v).rngSeed = s.rngSeed := rfl
@[simp] theorem writeFlags_rngDraws (z c n v : Bool) : (s.writeFlags z c n v).rngDraws = s.rngDraws := rfl
@[simp] theorem writeFlags_keyLatch (z c n v : Bool) : (s.writeFlags z c n v).keyLatch = s.keyLatch := rfl
@[simp] theorem writeFlags_params (z c n v : Bool) : (s.writeFlags z c n v).params = s.params := rfl

/-! ### `writePC` -/

@[simp] theorem writePC_gpr (a : Word) : (s.writePC a).gpr = s.gpr := rfl
@[simp] theorem writePC_i (a : Word) : (s.writePC a).i = s.i := rfl
@[simp] theorem writePC_sp (a : Word) : (s.writePC a).sp = s.sp := rfl
@[simp] theorem writePC_pc (a : Word) : (s.writePC a).pc = a := rfl
@[simp] theorem writePC_f (a : Word) : (s.writePC a).f = s.f := rfl
@[simp] theorem writePC_halted (a : Word) : (s.writePC a).halted = s.halted := rfl
@[simp] theorem writePC_haltReason (a : Word) : (s.writePC a).haltReason = s.haltReason := rfl
@[simp] theorem writePC_role (a : Word) : (s.writePC a).role = s.role := rfl
@[simp] theorem writePC_mem (a : Word) : (s.writePC a).mem = s.mem := rfl
@[simp] theorem writePC_console (a : Word) : (s.writePC a).console = s.console := rfl
@[simp] theorem writePC_mailboxes (a : Word) : (s.writePC a).mailboxes = s.mailboxes := rfl
@[simp] theorem writePC_rngSeed (a : Word) : (s.writePC a).rngSeed = s.rngSeed := rfl
@[simp] theorem writePC_rngDraws (a : Word) : (s.writePC a).rngDraws = s.rngDraws := rfl
@[simp] theorem writePC_keyLatch (a : Word) : (s.writePC a).keyLatch = s.keyLatch := rfl
@[simp] theorem writePC_params (a : Word) : (s.writePC a).params = s.params := rfl

/-! ### `writeSP` -/

@[simp] theorem writeSP_gpr (v : Byte) : (s.writeSP v).gpr = s.gpr := rfl
@[simp] theorem writeSP_i (v : Byte) : (s.writeSP v).i = s.i := rfl
@[simp] theorem writeSP_sp (v : Byte) : (s.writeSP v).sp = v := rfl
@[simp] theorem writeSP_pc (v : Byte) : (s.writeSP v).pc = s.pc := rfl
@[simp] theorem writeSP_f (v : Byte) : (s.writeSP v).f = s.f := rfl
@[simp] theorem writeSP_halted (v : Byte) : (s.writeSP v).halted = s.halted := rfl
@[simp] theorem writeSP_haltReason (v : Byte) : (s.writeSP v).haltReason = s.haltReason := rfl
@[simp] theorem writeSP_role (v : Byte) : (s.writeSP v).role = s.role := rfl
@[simp] theorem writeSP_mem (v : Byte) : (s.writeSP v).mem = s.mem := rfl
@[simp] theorem writeSP_console (v : Byte) : (s.writeSP v).console = s.console := rfl
@[simp] theorem writeSP_mailboxes (v : Byte) : (s.writeSP v).mailboxes = s.mailboxes := rfl
@[simp] theorem writeSP_rngSeed (v : Byte) : (s.writeSP v).rngSeed = s.rngSeed := rfl
@[simp] theorem writeSP_rngDraws (v : Byte) : (s.writeSP v).rngDraws = s.rngDraws := rfl
@[simp] theorem writeSP_keyLatch (v : Byte) : (s.writeSP v).keyLatch = s.keyLatch := rfl
@[simp] theorem writeSP_params (v : Byte) : (s.writeSP v).params = s.params := rfl

/-! ### `setMemByte` -/

@[simp] theorem setMemByte_gpr (a : Word) (v : Byte) : (s.setMemByte a v).gpr = s.gpr := rfl
@[simp] theorem setMemByte_i (a : Word) (v : Byte) : (s.setMemByte a v).i = s.i := rfl
@[simp] theorem setMemByte_sp (a : Word) (v : Byte) : (s.setMemByte a v).sp = s.sp := rfl
@[simp] theorem setMemByte_pc (a : Word) (v : Byte) : (s.setMemByte a v).pc = s.pc := rfl
@[simp] theorem setMemByte_f (a : Word) (v : Byte) : (s.setMemByte a v).f = s.f := rfl
@[simp] theorem setMemByte_halted (a : Word) (v : Byte) : (s.setMemByte a v).halted = s.halted := rfl
@[simp] theorem setMemByte_haltReason (a : Word) (v : Byte) : (s.setMemByte a v).haltReason = s.haltReason := rfl
@[simp] theorem setMemByte_role (a : Word) (v : Byte) : (s.setMemByte a v).role = s.role := rfl
@[simp] theorem setMemByte_mem (a : Word) (v : Byte) : (s.setMemByte a v).mem = s.mem.write a.toNat v := rfl
@[simp] theorem setMemByte_console (a : Word) (v : Byte) : (s.setMemByte a v).console = s.console := rfl
@[simp] theorem setMemByte_mailboxes (a : Word) (v : Byte) : (s.setMemByte a v).mailboxes = s.mailboxes := rfl
@[simp] theorem setMemByte_rngSeed (a : Word) (v : Byte) : (s.setMemByte a v).rngSeed = s.rngSeed := rfl
@[simp] theorem setMemByte_rngDraws (a : Word) (v : Byte) : (s.setMemByte a v).rngDraws = s.rngDraws := rfl
@[simp] theorem setMemByte_keyLatch (a : Word) (v : Byte) : (s.setMemByte a v).keyLatch = s.keyLatch := rfl
@[simp] theorem setMemByte_params (a : Word) (v : Byte) : (s.setMemByte a v).params = s.params := rfl

/-! ### `setLatch` -/

@[simp] theorem setLatch_gpr (a : Word) (v : Byte) : (s.setLatch a v).gpr = s.gpr := rfl
@[simp] theorem setLatch_i (a : Word) (v : Byte) : (s.setLatch a v).i = s.i := rfl
@[simp] theorem setLatch_sp (a : Word) (v : Byte) : (s.setLatch a v).sp = s.sp := rfl
@[simp] theorem setLatch_pc (a : Word) (v : Byte) : (s.setLatch a v).pc = s.pc := rfl
@[simp] theorem setLatch_f (a : Word) (v : Byte) : (s.setLatch a v).f = s.f := rfl
@[simp] theorem setLatch_halted (a : Word) (v : Byte) : (s.setLatch a v).halted = s.halted := rfl
@[simp] theorem setLatch_haltReason (a : Word) (v : Byte) : (s.setLatch a v).haltReason = s.haltReason := rfl
@[simp] theorem setLatch_role (a : Word) (v : Byte) : (s.setLatch a v).role = s.role := rfl
@[simp] theorem setLatch_mem (a : Word) (v : Byte) : (s.setLatch a v).mem = s.mem := rfl
@[simp] theorem setLatch_console (a : Word) (v : Byte) : (s.setLatch a v).console = s.console := rfl
@[simp] theorem setLatch_mailboxes (a : Word) (v : Byte) : (s.setLatch a v).mailboxes = s.mailboxes := rfl
@[simp] theorem setLatch_rngSeed (a : Word) (v : Byte) : (s.setLatch a v).rngSeed = s.rngSeed := rfl
@[simp] theorem setLatch_rngDraws (a : Word) (v : Byte) : (s.setLatch a v).rngDraws = s.rngDraws := rfl
@[simp] theorem setLatch_keyLatch (a : Word) (v : Byte) : (s.setLatch a v).keyLatch = s.keyLatch.write a.toNat v := rfl
@[simp] theorem setLatch_params (a : Word) (v : Byte) : (s.setLatch a v).params = s.params := rfl

/-! ### `consoleAppend` -/

@[simp] theorem consoleAppend_gpr (b : Byte) : (s.consoleAppend b).gpr = s.gpr := rfl
@[simp] theorem consoleAppend_i (b : Byte) : (s.consoleAppend b).i = s.i := rfl
@[simp] theorem consoleAppend_sp (b : Byte) : (s.consoleAppend b).sp = s.sp := rfl
@[simp] theorem consoleAppend_pc (b : Byte) : (s.consoleAppend b).pc = s.pc := rfl
@[simp] theorem consoleAppend_f (b : Byte) : (s.consoleAppend b).f = s.f := rfl
@[simp] theorem consoleAppend_halted (b : Byte) : (s.consoleAppend b).halted = s.halted := rfl
@[simp] theorem consoleAppend_haltReason (b : Byte) : (s.consoleAppend b).haltReason = s.haltReason := rfl
@[simp] theorem consoleAppend_role (b : Byte) : (s.consoleAppend b).role = s.role := rfl
@[simp] theorem consoleAppend_mem (b : Byte) : (s.consoleAppend b).mem = s.mem := rfl
@[simp] theorem consoleAppend_console (b : Byte) : (s.consoleAppend b).console = s.console ++ [b] := rfl
@[simp] theorem consoleAppend_mailboxes (b : Byte) : (s.consoleAppend b).mailboxes = s.mailboxes := rfl
@[simp] theorem consoleAppend_rngSeed (b : Byte) : (s.consoleAppend b).rngSeed = s.rngSeed := rfl
@[simp] theorem consoleAppend_rngDraws (b : Byte) : (s.consoleAppend b).rngDraws = s.rngDraws := rfl
@[simp] theorem consoleAppend_keyLatch (b : Byte) : (s.consoleAppend b).keyLatch = s.keyLatch := rfl
@[simp] theorem consoleAppend_params (b : Byte) : (s.consoleAppend b).params = s.params := rfl

/-! ### `mbWrite` -/

@[simp] theorem mbWrite_gpr (m : Byte) (o : Word) (v : Byte) : (s.mbWrite m o v).gpr = s.gpr := rfl
@[simp] theorem mbWrite_i (m : Byte) (o : Word) (v : Byte) : (s.mbWrite m o v).i = s.i := rfl
@[simp] theorem mbWrite_sp (m : Byte) (o : Word) (v : Byte) : (s.mbWrite m o v).sp = s.sp := rfl
@[simp] theorem mbWrite_pc (m : Byte) (o : Word) (v : Byte) : (s.mbWrite m o v).pc = s.pc := rfl
@[simp] theorem mbWrite_f (m : Byte) (o : Word) (v : Byte) : (s.mbWrite m o v).f = s.f := rfl
@[simp] theorem mbWrite_halted (m : Byte) (o : Word) (v : Byte) : (s.mbWrite m o v).halted = s.halted := rfl
@[simp] theorem mbWrite_haltReason (m : Byte) (o : Word) (v : Byte) : (s.mbWrite m o v).haltReason = s.haltReason := rfl
@[simp] theorem mbWrite_role (m : Byte) (o : Word) (v : Byte) : (s.mbWrite m o v).role = s.role := rfl
@[simp] theorem mbWrite_mem (m : Byte) (o : Word) (v : Byte) : (s.mbWrite m o v).mem = s.mem := rfl
@[simp] theorem mbWrite_console (m : Byte) (o : Word) (v : Byte) : (s.mbWrite m o v).console = s.console := rfl
@[simp] theorem mbWrite_mailboxes (m : Byte) (o : Word) (v : Byte) : (s.mbWrite m o v).mailboxes = s.mailboxes.write (mailboxKey m o) v := rfl
@[simp] theorem mbWrite_rngSeed (m : Byte) (o : Word) (v : Byte) : (s.mbWrite m o v).rngSeed = s.rngSeed := rfl
@[simp] theorem mbWrite_rngDraws (m : Byte) (o : Word) (v : Byte) : (s.mbWrite m o v).rngDraws = s.rngDraws := rfl
@[simp] theorem mbWrite_keyLatch (m : Byte) (o : Word) (v : Byte) : (s.mbWrite m o v).keyLatch = s.keyLatch := rfl
@[simp] theorem mbWrite_params (m : Byte) (o : Word) (v : Byte) : (s.mbWrite m o v).params = s.params := rfl

/-! ### `advancePC` -/

@[simp] theorem advancePC_gpr : (s.advancePC).gpr = s.gpr := rfl
@[simp] theorem advancePC_i : (s.advancePC).i = s.i := rfl
@[simp] theorem advancePC_sp : (s.advancePC).sp = s.sp := rfl
@[simp] theorem advancePC_pc : (s.advancePC).pc = s.pc + 2 := rfl
@[simp] theorem advancePC_f : (s.advancePC).f = s.f := rfl
@[simp] theorem advancePC_halted : (s.advancePC).halted = s.halted := rfl
@[simp] theorem advancePC_haltReason : (s.advancePC).haltReason = s.haltReason := rfl
@[simp] theorem advancePC_role : (s.advancePC).role = s.role := rfl
@[simp] theorem advancePC_mem : (s.advancePC).mem = s.mem := rfl
@[simp] theorem advancePC_console : (s.advancePC).console = s.console := rfl
@[simp] theorem advancePC_mailboxes : (s.advancePC).mailboxes = s.mailboxes := rfl
@[simp] theorem advancePC_rngSeed : (s.advancePC).rngSeed = s.rngSeed := rfl
@[simp] theorem advancePC_rngDraws : (s.advancePC).rngDraws = s.rngDraws := rfl
@[simp] theorem advancePC_keyLatch : (s.advancePC).keyLatch = s.keyLatch := rfl
@[simp] theorem advancePC_params : (s.advancePC).params = s.params := rfl

/-! ### `writeReg` -/

@[simp] theorem writeReg_gpr_gpr (n : Fin 8) (v : Word) : (s.writeReg (.gpr n) v).gpr = s.gpr.set n (trunc8 v) := rfl
@[simp] theorem writeReg_i_i (v : Word) : (s.writeReg .i v).i = v := rfl
@[simp] theorem writeReg_sp_sp (v : Word) : (s.writeReg .sp v).sp = trunc8 v := rfl
@[simp] theorem writeReg_pc_pc (v : Word) : (s.writeReg .pc v).pc = v := rfl
@[simp] theorem writeReg_f_f (v : Word) : (s.writeReg .f v).f = flagBits (trunc8 v) := rfl
theorem writeReg_i (r : Reg) (v : Word) (h : r ≠ .i) : (s.writeReg r v).i = s.i := by
  cases r <;> first | rfl | exact absurd rfl h
theorem writeReg_sp (r : Reg) (v : Word) (h : r ≠ .sp) : (s.writeReg r v).sp = s.sp := by
  cases r <;> first | rfl | exact absurd rfl h
theorem writeReg_pc (r : Reg) (v : Word) (h : r ≠ .pc) : (s.writeReg r v).pc = s.pc := by
  cases r <;> first | rfl | exact absurd rfl h
theorem writeReg_f (r : Reg) (v : Word) (h : r ≠ .f) : (s.writeReg r v).f = s.f := by
  cases r <;> first | rfl | exact absurd rfl h
theorem writeReg_gpr (r : Reg) (v : Word) (h : ∀ n, r ≠ .gpr n) : (s.writeReg r v).gpr = s.gpr := by
  cases r <;> first | rfl | exact absurd rfl (h _)
@[simp] theorem writeReg_halted (r : Reg) (v : Word) : (s.writeReg r v).halted = s.halted := by cases r <;> rfl
@[simp] theorem writeReg_haltReason (r : Reg) (v : Word) : (s.writeReg r v).haltReason = s.haltReason := by cases r <;> rfl
@[simp] theorem writeReg_role (r : Reg) (v : Word) : (s.writeReg r v).role = s.role := by cases r <;> rfl
@[simp] theorem writeReg_mem (r : Reg) (v : Word) : (s.writeReg r v).mem = s.mem := by cases r <;> rfl
@[simp] theorem writeReg_console (r : Reg) (v : Word) : (s.writeReg r v).console = s.console := by cases r <;> rfl
@[simp] theorem writeReg_mailboxes (r : Reg) (v : Word) : (s.writeReg r v).mailboxes = s.mailboxes := by cases r <;> rfl
@[simp] theorem writeReg_rngSeed (r : Reg) (v : Word) : (s.writeReg r v).rngSeed = s.rngSeed := by cases r <;> rfl
@[simp] theorem writeReg_rngDraws (r : Reg) (v : Word) : (s.writeReg r v).rngDraws = s.rngDraws := by cases r <;> rfl
@[simp] theorem writeReg_keyLatch (r : Reg) (v : Word) : (s.writeReg r v).keyLatch = s.keyLatch := by cases r <;> rfl
@[simp] theorem writeReg_params (r : Reg) (v : Word) : (s.writeReg r v).params = s.params := by cases r <;> rfl

/-! ### `writeAlu` -/

@[simp] theorem writeAlu_halted (rd : Reg) (x : AluResult) : (s.writeAlu rd x).halted = s.halted := by
  unfold State.writeAlu; cases x.writesFlags <;> simp
@[simp] theorem writeAlu_haltReason (rd : Reg) (x : AluResult) : (s.writeAlu rd x).haltReason = s.haltReason := by
  unfold State.writeAlu; cases x.writesFlags <;> simp
@[simp] theorem writeAlu_role (rd : Reg) (x : AluResult) : (s.writeAlu rd x).role = s.role := by
  unfold State.writeAlu; cases x.writesFlags <;> simp
@[simp] theorem writeAlu_mem (rd : Reg) (x : AluResult) : (s.writeAlu rd x).mem = s.mem := by
  unfold State.writeAlu; cases x.writesFlags <;> simp
@[simp] theorem writeAlu_console (rd : Reg) (x : AluResult) : (s.writeAlu rd x).console = s.console := by
  unfold State.writeAlu; cases x.writesFlags <;> simp
@[simp] theorem writeAlu_mailboxes (rd : Reg) (x : AluResult) : (s.writeAlu rd x).mailboxes = s.mailboxes := by
  unfold State.writeAlu; cases x.writesFlags <;> simp
@[simp] theorem writeAlu_rngSeed (rd : Reg) (x : AluResult) : (s.writeAlu rd x).rngSeed = s.rngSeed := by
  unfold State.writeAlu; cases x.writesFlags <;> simp
@[simp] theorem writeAlu_rngDraws (rd : Reg) (x : AluResult) : (s.writeAlu rd x).rngDraws = s.rngDraws := by
  unfold State.writeAlu; cases x.writesFlags <;> simp
@[simp] theorem writeAlu_keyLatch (rd : Reg) (x : AluResult) : (s.writeAlu rd x).keyLatch = s.keyLatch := by
  unfold State.writeAlu; cases x.writesFlags <;> simp
@[simp] theorem writeAlu_params (rd : Reg) (x : AluResult) : (s.writeAlu rd x).params = s.params := by
  unfold State.writeAlu; cases x.writesFlags <;> simp

/-! ### Reset -/

theorem reset_mem_wf : State.reset.mem.wf = true := by decide
theorem reset_mailboxes_wf : State.reset.mailboxes.wf = true := by decide
theorem reset_keyLatch_wf : State.reset.keyLatch.wf = true := by decide

end Sys2Proof.Machine
end

