-- ==== Sys2Proof/Laws/Ops.lean ====
section
/-! SUPPORT. One lemma per shared operation that says everything it can do, for later proofs to cite. -/

namespace Sys2Proof.Machine

variable (s t : State)

/-! ### Ending an instruction -/

@[simp] theorem settle_ok : s.settle (.ok t) = .next t := rfl
@[simp] theorem settle_error (r : HaltReason) : s.settle (.error r) = .next (s.haltWith r) := rfl

/-- An instruction that may raise either completed, or left the state at dispatch, halted. -/
theorem settle_cases (x : Except HaltReason State) (h : s.settle x = .next t) :
    x = .ok t ∨ ∃ r, x = .error r ∧ t = s.haltWith r := by
  cases x with
  | ok u => exact .inl (by simpa using h)
  | error r => exact .inr ⟨r, rfl, by simpa using h.symm⟩

/-! ### Bytes and words -/

@[simp] theorem trunc8_zext16 (b : Byte) : trunc8 (zext16 b) = b := by
  apply BitVec.eq_of_toNat_eq
  simp [trunc8, zext16]

@[simp] theorem zext16_toNat (b : Byte) : (zext16 b).toNat = b.toNat := by
  simp only [zext16, BitVec.toNat_setWidth]
  omega

@[simp] theorem absAddr_toNat (a : BitVec 12) : (absAddr a).toNat = a.toNat := by
  simp only [absAddr, BitVec.toNat_setWidth]
  omega

@[simp] theorem callTarget_toNat (a : BitVec 12) : (callTarget a).toNat = a.toNat + Config.stackSize := by
  have := a.isLt
  simp only [callTarget, BitVec.toNat_add, absAddr_toNat, Config.stackSize, BitVec.toNat_ofNat]
  omega

@[simp] theorem flagBits_flagBits (v : Byte) : flagBits (flagBits v) = flagBits v := by
  simp [flagBits, BitVec.and_assoc]

@[simp] theorem flagBits_packFlags (z c n v : Bool) : flagBits (packFlags z c n v) = packFlags z c n v := by
  cases z <;> cases c <;> cases n <;> cases v <;> decide

theorem hiByte_toNat (w : Word) : (hiByte w).toNat = w.toNat / 256 := by
  have := w.isLt
  simp only [hiByte, BitVec.extractLsb'_toNat, Nat.shiftRight_eq_div_pow]
  omega

theorem loByte_toNat (w : Word) : (loByte w).toNat = w.toNat % 256 := by
  simp [loByte, BitVec.extractLsb'_toNat]

theorem wordOfBytes_toNat (hi lo : Byte) : (wordOfBytes hi lo).toNat = 256 * hi.toNat + lo.toNat := by
  have := lo.isLt
  simp only [wordOfBytes, BitVec.toNat_append]
  rw [← Nat.shiftLeft_add_eq_or_of_lt (by simpa using lo.isLt), Nat.shiftLeft_eq]
  omega

theorem wordOfBytes_hiByte_loByte (w : Word) : wordOfBytes (hiByte w) (loByte w) = w := by
  apply BitVec.eq_of_toNat_eq
  rw [wordOfBytes_toNat, hiByte_toNat, loByte_toNat]
  omega

theorem stackSlot_toNat (sp : Byte) : (stackSlot sp).toNat = 256 - sp.toNat := by
  simp only [stackSlot, Config.stackBase, Config.stackSize, BitVec.toNat_ofNat]
  omega

/-- No stack access passes 0xFFFF (20_memory R52). -/
@[simp] theorem passesEnd_stackSlot (sp : Byte) : passesEnd (stackSlot sp) = false := by
  simp only [passesEnd, Config.memSize, stackSlot_toNat, decide_eq_false_iff_not]
  omega

/-! ### The router -/

/-- Everything a router read does: it changes nothing, or it draws from the generator at an Rng address. -/
theorem read8_cases (a : Word) :
    (s.read8 a).2 = s ∨
      (s.ownerOf a = some .rng ∧ s.read8 a = (Config.rngByte s.rngSeed s.rngDraws, { s with rngDraws := s.rngDraws + 1 })) := by
  unfold State.read8
  split <;> simp_all

theorem read8_plain (a : Word) (h : s.ownerOf a = none) : s.read8 a = (s.memByte a, s) := by
  simp [State.read8, h]

theorem write8_plain (a : Word) (v : Byte) (h : s.ownerOf a = none) : s.write8 a v = s.setMemByte a v := by
  simp [State.write8, h]

/-- Everything a router write does: it stores, it stores and appends, it does nothing, or it sets a latch. -/
theorem write8_cases (a : Word) (v : Byte) :
    s.write8 a v = s.setMemByte a v ∨ s.write8 a v = (s.setMemByte a v).consoleAppend v ∨
      s.write8 a v = s ∨ s.write8 a v = s.setLatch a v := by
  unfold State.write8
  split <;> simp

@[simp] theorem read8_gpr (a : Word) : (s.read8 a).2.gpr = s.gpr := by unfold State.read8; split <;> rfl
@[simp] theorem read8_i (a : Word) : (s.read8 a).2.i = s.i := by unfold State.read8; split <;> rfl
@[simp] theorem read8_sp (a : Word) : (s.read8 a).2.sp = s.sp := by unfold State.read8; split <;> rfl
@[simp] theorem read8_pc (a : Word) : (s.read8 a).2.pc = s.pc := by unfold State.read8; split <;> rfl
@[simp] theorem read8_f (a : Word) : (s.read8 a).2.f = s.f := by unfold State.read8; split <;> rfl
@[simp] theorem read8_halted (a : Word) : (s.read8 a).2.halted = s.halted := by unfold State.read8; split <;> rfl
@[simp] theorem read8_haltReason (a : Word) : (s.read8 a).2.haltReason = s.haltReason := by
  unfold State.read8; split <;> rfl
@[simp] theorem read8_role (a : Word) : (s.read8 a).2.role = s.role := by unfold State.read8; split <;> rfl
@[simp] theorem read8_mem (a : Word) : (s.read8 a).2.mem = s.mem := by unfold State.read8; split <;> rfl
@[simp] theorem read8_console (a : Word) : (s.read8 a).2.console = s.console := by unfold State.read8; split <;> rfl
@[simp] theorem read8_mailboxes (a : Word) : (s.read8 a).2.mailboxes = s.mailboxes := by
  unfold State.read8; split <;> rfl
@[simp] theorem read8_rngSeed (a : Word) : (s.read8 a).2.rngSeed = s.rngSeed := by unfold State.read8; split <;> rfl
@[simp] theorem read8_keyLatch (a : Word) : (s.read8 a).2.keyLatch = s.keyLatch := by unfold State.read8; split <;> rfl
@[simp] theorem read8_params (a : Word) : (s.read8 a).2.params = s.params := by unfold State.read8; split <;> rfl
@[simp] theorem write8_gpr (a : Word) (v : Byte) : (s.write8 a v).gpr = s.gpr := by unfold State.write8; split <;> rfl
@[simp] theorem write8_i (a : Word) (v : Byte) : (s.write8 a v).i = s.i := by unfold State.write8; split <;> rfl
@[simp] theorem write8_sp (a : Word) (v : Byte) : (s.write8 a v).sp = s.sp := by unfold State.write8; split <;> rfl
@[simp] theorem write8_pc (a : Word) (v : Byte) : (s.write8 a v).pc = s.pc := by unfold State.write8; split <;> rfl
@[simp] theorem write8_f (a : Word) (v : Byte) : (s.write8 a v).f = s.f := by unfold State.write8; split <;> rfl
@[simp] theorem write8_halted (a : Word) (v : Byte) : (s.write8 a v).halted = s.halted := by
  unfold State.write8; split <;> rfl
@[simp] theorem write8_haltReason (a : Word) (v : Byte) : (s.write8 a v).haltReason = s.haltReason := by
  unfold State.write8; split <;> rfl
@[simp] theorem write8_role (a : Word) (v : Byte) : (s.write8 a v).role = s.role := by
  unfold State.write8; split <;> rfl
@[simp] theorem write8_mailboxes (a : Word) (v : Byte) : (s.write8 a v).mailboxes = s.mailboxes := by
  unfold State.write8; split <;> rfl
@[simp] theorem write8_rngSeed (a : Word) (v : Byte) : (s.write8 a v).rngSeed = s.rngSeed := by
  unfold State.write8; split <;> rfl
@[simp] theorem write8_rngDraws (a : Word) (v : Byte) : (s.write8 a v).rngDraws = s.rngDraws := by
  unfold State.write8; split <;> rfl
@[simp] theorem write8_params (a : Word) (v : Byte) : (s.write8 a v).params = s.params := by
  unfold State.write8; split <;> rfl

/-! ### The stack unit -/

/-- `push8` raises at SP = 255 and otherwise stores at the new top slot and raises SP by one. -/
theorem push8_eq (v : Byte) :
    s.push8 v = if 255 ≤ s.sp.toNat then .error .stackOverflow
      else .ok ((s.write8 (stackSlot (s.sp + 1)) v).writeSP (s.sp + 1)) := by
  simp only [State.push8, Config.stackSize]
  congr 1
  simp only [eq_iff_iff]
  omega

/-- `pop8` raises at SP = 0 and otherwise reads the top slot and lowers SP by one. -/
theorem pop8_eq :
    s.pop8 = if s.sp.toNat = 0 then .error .stackUnderflow
      else .ok ((s.read8 (stackSlot s.sp)).1, (s.read8 (stackSlot s.sp)).2.writeSP (s.sp - 1)) := by
  simp only [State.pop8]
  congr 1
  simp only [eq_iff_iff]
  omega

/-- `push16` raises at SP = 254 and 255 and otherwise stores the high byte at the new top slot, the low byte after it,
and raises SP by two. -/
theorem push16_eq (v : Word) :
    s.push16 v = if 254 ≤ s.sp.toNat then .error .stackOverflow
      else .ok (((s.write8 (stackSlot (s.sp + 2)) (hiByte v)).write8 (stackSlot (s.sp + 2) + 1) (loByte v)).writeSP
        (s.sp + 2)) := by
  simp only [State.push16, State.memWrite16, Config.stackSize, passesEnd_stackSlot]
  congr 1
  simp only [eq_iff_iff]
  omega

/-- `pop16` raises at SP = 0 and 1 and otherwise reads two bytes at the top slot, the high one first, and lowers SP by
two. -/
theorem pop16_eq :
    s.pop16 = if s.sp.toNat < 2 then .error .stackUnderflow
      else .ok (wordOfBytes (s.read8 (stackSlot s.sp)).1 ((s.read8 (stackSlot s.sp)).2.read8 (stackSlot s.sp + 1)).1,
        ((s.read8 (stackSlot s.sp)).2.read8 (stackSlot s.sp + 1)).2.writeSP (s.sp - 2)) := by
  simp [State.pop16, State.memRead16]

/-! ### The mailbox translator -/

/-- `resolve_mailbox` answers the mailbox the role picks, or raises on it. -/
theorem resolveMailbox_eq (role : Role) (n : Nat) (opv : Word) :
    resolveMailbox role n opv =
      if n ≤ (targetMailbox role opv).toNat then .error (.addressFault (.mailbox (targetMailbox role opv)))
      else .ok (targetMailbox role opv) := by
  cases role with
  | agent id => rfl
  | arbiter =>
    have h : trunc8 opv = targetMailbox .arbiter opv := by
      apply BitVec.eq_of_toNat_eq
      simp [trunc8, targetMailbox]
    rw [← h]
    rfl

/-- Everything the translator and the offset check do, in their order. -/
theorem mailboxTarget_eq (ra : Reg) :
    s.mailboxTarget ra =
      if s.params.numAgents ≤ (targetMailbox s.role (s.readReg ra)).toNat then
        .error (.addressFault (.mailbox (targetMailbox s.role (s.readReg ra))))
      else if s.params.mailboxSize ≤ s.i.toNat then .error (.addressFault (.mailboxOffset s.i))
      else .ok (targetMailbox s.role (s.readReg ra), s.i) := by
  unfold State.mailboxTarget
  rw [resolveMailbox_eq]
  by_cases h : s.params.numAgents ≤ (targetMailbox s.role (s.readReg ra)).toNat
  · rw [if_pos h, if_pos h]
  · rw [if_neg h, if_neg h]
    rfl

theorem mailboxKey_inj (m m' : Byte) (o o' : Word) (h : mailboxKey m o = mailboxKey m' o') : m = m' ∧ o = o' := by
  have := o.isLt
  have := o'.isLt
  simp only [mailboxKey] at h
  exact ⟨BitVec.eq_of_toNat_eq (by omega), BitVec.eq_of_toNat_eq (by omega)⟩

/-! ### The sequencer -/

/-- Everything the sequencer can come to: an instance halted already, a fetch-range fault at PC, a fetch fault after
the advance, or a dispatch after the advance. -/
theorem sequence_cases :
    (s.halted = true ∧ s.sequence = .done s) ∨
    (s.halted = false ∧ s.fetchInRange = false ∧ s.sequence = .done (s.haltWith (.addressFault (.fetch s.pc)))) ∨
    (s.halted = false ∧ s.fetchInRange = true ∧
      ((∃ r, s.fetchInstr = .error r ∧ s.sequence = .done (s.advancePC.haltWith r)) ∨
        ∃ i, s.fetchInstr = .ok i ∧ s.sequence = .dispatch i s.advancePC)) := by
  unfold State.sequence
  cases hh : s.halted <;> cases hr : s.fetchInRange <;> cases hf : s.fetchInstr <;> simp

/-- Everything a step can do, in the same four cases. -/
theorem step_cases (h : step s = .next t) :
    (s.halted = true ∧ t = s) ∨
    (s.halted = false ∧ s.fetchInRange = false ∧ t = s.haltWith (.addressFault (.fetch s.pc))) ∨
    (s.halted = false ∧ s.fetchInRange = true ∧
      ((∃ r, s.fetchInstr = .error r ∧ t = s.advancePC.haltWith r) ∨
        ∃ i, s.fetchInstr = .ok i ∧ exec i s.advancePC = .next t)) := by
  unfold step at h
  rcases sequence_cases s with ⟨h1, h2⟩ | ⟨h1, h2, h3⟩ | ⟨h1, h2, ⟨r, h3, h4⟩ | ⟨i, h3, h4⟩⟩
  · rw [h2] at h
    exact .inl ⟨h1, by simpa using h.symm⟩
  · rw [h3] at h
    exact .inr (.inl ⟨h1, h2, by simpa using h.symm⟩)
  · rw [h4] at h
    exact .inr (.inr ⟨h1, h2, .inl ⟨r, h3, by simpa using h.symm⟩⟩)
  · rw [h4] at h
    exact .inr (.inr ⟨h1, h2, .inr ⟨i, h3, h⟩⟩)

/-- What the fetch records when it halts: a half word, a word that does not decode, or an access past 0xFFFF. -/
theorem fetchInstr_error (r : HaltReason) (h : s.fetchInstr = .error r) :
    r = .decodeError (.partialByte (s.memByte s.pc)) ∨ r = .addressFault (.fetch s.pc) ∨
      r = .decodeError (.word (s.fetchWord s.pc)) := by
  unfold State.fetchInstr at h
  split at h
  · exact .inl (by simpa using h.symm)
  · split at h
    · exact .inr (.inl (by simpa using h.symm))
    · split at h
      · cases h
      · exact .inr (.inr (by simpa using h.symm))

end Sys2Proof.Machine
end

