-- ==== Sys2Proof/Laws/Exec.lean ====
section
/-! SUPPORT. What an instruction can do, said once: the inversion lemma of `exec`. -/

namespace Sys2Proof.Machine

/-- Everything an instruction can do: it raised, or it completed in the way its rule gives. The operand values that no
later proof needs are left as some value. -/
theorem exec_cases (i : Instr) (s t : State) (he : exec i s = .next t) :
    (∃ r, r ≠ HaltReason.none ∧ t = s.haltWith r) ∨
    (i = .nop ∧ t = s) ∨
    (∃ d r, i = .mov d r ∧ t = s.writeAlu d (alu .pass (s.readReg d) (s.readReg r))) ∨
    (∃ d r, i = .add d r ∧ t = s.writeAlu d (alu .add (s.readReg d) (s.readReg r))) ∨
    (∃ d r, i = .sub d r ∧ t = s.writeAlu d (alu .sub (s.readReg d) (s.readReg r))) ∨
    (∃ d v, i = .ldi d v ∧ t = s.writeReg d (zext16 v)) ∨
    (∃ a, i = .jmp a ∧ t = s.writePC (absAddr a)) ∨
    (∃ a, (i = .jz a ∨ i = .jnz a) ∧ (t = s ∨ t = s.writePC (absAddr a))) ∨
    (∃ a, i = .call a ∧ s.sp.toNat < 254 ∧
      t = (((s.write8 (stackSlot (s.sp + 2)) (hiByte s.pc)).write8 (stackSlot (s.sp + 2) + 1) (loByte s.pc)).writeSP
        (s.sp + 2)).writePC (callTarget a)) ∨
    (i = .ret ∧ 2 ≤ s.sp.toNat ∧
      ∃ w, t = (((s.read8 (stackSlot s.sp)).2.read8 (stackSlot s.sp + 1)).2.writeSP (s.sp - 2)).writePC w) ∨
    (∃ r, i = .push r ∧ s.sp.toNat < 255 ∧
      t = (s.write8 (stackSlot (s.sp + 1)) (trunc8 (s.readReg r))).writeSP (s.sp + 1)) ∨
    (∃ r v, i = .pop r ∧ 1 ≤ s.sp.toNat ∧
      t = ((s.read8 (stackSlot s.sp)).2.writeSP (s.sp - 1)).writeReg r (zext16 v)) ∨
    (∃ a v, i = .ld a ∧ t = (s.read8 (absAddr a)).2.writeReg (.gpr 0) (zext16 v)) ∨
    (∃ a v, i = .st a ∧ t = s.write8 (absAddr a) v) ∨
    (∃ r a v, i = .gld r a ∧ t = s.writeReg r (zext16 v)) ∨
    (∃ r a v m o, i = .gst r a ∧ m = targetMailbox s.role (s.readReg a) ∧ m.toNat < s.params.numAgents ∧
      o.toNat < s.params.mailboxSize ∧ t = s.mbWrite m o v) ∨
    (∃ r v, i = .putc r ∧ t = s.consoleAppend v) := by
  cases i with
  | halt c => simp [exec, execHalt] at he; exact .inl ⟨_, by simp, he.symm⟩
  | call a =>
    simp only [exec, execCall, push16_eq] at he
    by_cases h : 254 ≤ s.sp.toNat
    · rw [if_pos h] at he; simp at he; exact .inl ⟨_, by simp, he.symm⟩
    · rw [if_neg h] at he; simp [State.readReg] at he; subst he; simp; right; omega
  | push a =>
    simp only [exec, execPush, push8_eq] at he
    by_cases h : 255 ≤ s.sp.toNat
    · rw [if_pos h] at he; simp at he; exact .inl ⟨_, by simp, he.symm⟩
    · rw [if_neg h] at he; simp at he; subst he; simp; right; omega
  | ret =>
    simp only [exec, execRet, pop16_eq] at he
    by_cases h : s.sp.toNat < 2
    · rw [if_pos h] at he; simp at he; exact .inl ⟨_, by simp, he.symm⟩
    · rw [if_neg h] at he; simp only [settle_ok, Host.Outcome.next.injEq] at he; subst he
      iterate 9 right
      exact .inl ⟨rfl, by omega, _, rfl⟩
  | pop r =>
    simp only [exec, execPop, pop8_eq] at he
    by_cases h : s.sp.toNat = 0
    · rw [if_pos h] at he; simp at he; exact .inl ⟨_, by simp, he.symm⟩
    · rw [if_neg h] at he; simp at he; subst he; simp; right; exact ⟨by omega, _, rfl⟩
  | gld v a =>
    simp only [exec, execGld, mailboxTarget_eq] at he
    by_cases h : s.params.numAgents ≤ (targetMailbox s.role (s.readReg a)).toNat
    · rw [if_pos h] at he; simp at he; exact .inl ⟨_, by simp, he.symm⟩
    · rw [if_neg h] at he
      by_cases h2 : s.params.mailboxSize ≤ s.i.toNat
      · rw [if_pos h2] at he; simp at he; exact .inl ⟨_, by simp, he.symm⟩
      · rw [if_neg h2] at he; simp at he; subst he; simp; right; exact ⟨_, rfl⟩
  | gst v a =>
    simp only [exec, execGst, mailboxTarget_eq] at he
    by_cases h : s.params.numAgents ≤ (targetMailbox s.role (s.readReg a)).toNat
    · rw [if_pos h] at he; simp at he; exact .inl ⟨_, by simp, he.symm⟩
    · rw [if_neg h] at he
      by_cases h2 : s.params.mailboxSize ≤ s.i.toNat
      · rw [if_pos h2] at he; simp at he; exact .inl ⟨_, by simp, he.symm⟩
      · rw [if_neg h2] at he; simp only [settle_ok, Host.Outcome.next.injEq] at he; subst he
        iterate 15 right
        exact .inl ⟨v, a, _, _, _, rfl, rfl, by omega, by omega, rfl⟩
  | jz a => simp only [exec, execJz, Host.Outcome.next.injEq] at he; subst he; split <;> simp
  | jnz a => simp only [exec, execJnz, Host.Outcome.next.injEq] at he; subst he; split <;> simp
  | _ =>
    simp only [exec, execNop, execMov, execAdd, execSub, execLdi, execJmp, execLd, execSt, execPutc,
      Host.Outcome.next.injEq] at he
    subst he; simp [immValue, ldstReg, Config.ldstReg]
    try (right; exact ⟨_, rfl⟩)

end Sys2Proof.Machine
end

