-- ==== Sys2Proof/Laws/PerInstr.lean ====
section
/-! SUPPORT. A fact of every instruction as syntax, one lemma per constructor: the word `encode` writes is selected by
the instruction's own row of the opcode map (30_encoding R79). -/

namespace Sys2Proof.Laws.EncodedInRow

/-- The row of the instruction's mnemonic selects its encoding. -/
def Statement (i : Instr) : Prop := ∃ row ∈ opcodeTable, row.mnemonic = i.mnemonic ∧ row.selects (encode i) = true

theorem validRegCode_code (r : Reg) : validRegCode r.code = true := by
  cases r with
  | gpr n => revert n; decide
  | i => decide
  | sp => decide
  | pc => decide
  | f => decide

/-- Format RR: whatever the two codes, the word is in the row of its upper byte. -/
theorem selects_rr (row : OpcodeRow) (g s : BitVec 4) (d r : Reg)
    (h : ∀ c e : BitVec 4, validRegCode c = true → validRegCode e = true → row.selects (g ++ s ++ c ++ e) = true) :
    row.selects (encodeRR g s d r) = true :=
  h d.code r.code (validRegCode_code d) (validRegCode_code r)

/-- Format R, the same. -/
theorem selects_r (row : OpcodeRow) (g s : BitVec 4) (r : Reg)
    (h : ∀ c : BitVec 4, validRegCode c = true → row.selects (g ++ s ++ c ++ 0x0#4) = true) :
    row.selects (encodeR g s r) = true :=
  h r.code (validRegCode_code r)

theorem nop : Statement .nop := ⟨opcodeTable[0], by decide, rfl, by decide⟩

theorem halt (code8 : Byte) : Statement (.halt code8) :=
  ⟨opcodeTable[1], by decide, rfl, by revert code8; decide +kernel⟩

theorem mov (d s : Reg) : Statement (.mov d s) :=
  ⟨opcodeTable[2], by decide, rfl, selects_rr _ _ _ d s (by decide +kernel)⟩

theorem add (d s : Reg) : Statement (.add d s) :=
  ⟨opcodeTable[3], by decide, rfl, selects_rr _ _ _ d s (by decide +kernel)⟩

theorem sub (d s : Reg) : Statement (.sub d s) :=
  ⟨opcodeTable[4], by decide, rfl, selects_rr _ _ _ d s (by decide +kernel)⟩

theorem ldi (d : Reg) (imm8 : Byte) : Statement (.ldi d imm8) := by
  refine ⟨opcodeTable[5], by decide, rfl, ?_⟩
  have h : ∀ (c : BitVec 4) (v : Byte), validRegCode c = true →
      (opcodeTable[5]).selects ((0x2#4 ++ c ++ v : Word)) = true := by decide +kernel
  exact h d.code imm8 (validRegCode_code d)

theorem jmp (addr12 : BitVec 12) : Statement (.jmp addr12) :=
  ⟨opcodeTable[6], by decide, rfl, by revert addr12; decide +kernel⟩

theorem jz (addr12 : BitVec 12) : Statement (.jz addr12) :=
  ⟨opcodeTable[7], by decide, rfl, by revert addr12; decide +kernel⟩

theorem jnz (addr12 : BitVec 12) : Statement (.jnz addr12) :=
  ⟨opcodeTable[8], by decide, rfl, by revert addr12; decide +kernel⟩

theorem call (addr12 : BitVec 12) : Statement (.call addr12) :=
  ⟨opcodeTable[9], by decide, rfl, by revert addr12; decide +kernel⟩

theorem ret : Statement .ret := ⟨opcodeTable[10], by decide, rfl, by decide⟩

theorem push (r : Reg) : Statement (.push r) :=
  ⟨opcodeTable[11], by decide, rfl, selects_r _ _ _ r (by decide +kernel)⟩

theorem pop (r : Reg) : Statement (.pop r) :=
  ⟨opcodeTable[12], by decide, rfl, selects_r _ _ _ r (by decide +kernel)⟩

theorem ld (addr12 : BitVec 12) : Statement (.ld addr12) :=
  ⟨opcodeTable[13], by decide, rfl, by revert addr12; decide +kernel⟩

theorem st (addr12 : BitVec 12) : Statement (.st addr12) :=
  ⟨opcodeTable[14], by decide, rfl, by revert addr12; decide +kernel⟩

theorem gld (v a : Reg) : Statement (.gld v a) :=
  ⟨opcodeTable[15], by decide, rfl, selects_rr _ _ _ v a (by decide +kernel)⟩

theorem gst (v a : Reg) : Statement (.gst v a) :=
  ⟨opcodeTable[16], by decide, rfl, selects_rr _ _ _ v a (by decide +kernel)⟩

theorem putc (r : Reg) : Statement (.putc r) :=
  ⟨opcodeTable[17], by decide, rfl, selects_r _ _ _ r (by decide +kernel)⟩

end Sys2Proof.Laws.EncodedInRow
end

