-- ==== Sys2Proof/Tests/Slice0.lean ====
section
/-! SUPPORT. Tests of the model against words, vectors and programs of the spec, and witnesses that the hypotheses of
the statements can be met. -/

namespace Sys2Proof.Machine.Tests

/-! ### The checks refuse ill-formed terms -/

theorem test_undefined_register_code_refused : validRegCode 0x8#4 = false ∧ validRegCode 0xB#4 = false := by decide
theorem test_word_with_undefined_register_refused : wellFormedWord 0x1080#16 = false := by decide
theorem test_word_with_filler_bit_refused : wellFormedWord 0x7108#16 = false ∧ wellFormedWord 0x7001#16 = false := by
  decide
theorem test_word_with_unknown_selector_refused : wellFormedWord 0x1300#16 = false := by decide
theorem test_word_with_unknown_group_refused : wellFormedWord 0xC000#16 = false := by decide
theorem test_empty_region_refused : (Region.mk .rng 0x0F02 0x0F02).inSpace = false := by decide
theorem test_region_past_end_refused : (Region.mk .rng 0xFFFF 0x10001).inSpace = false := by decide
theorem test_overlapping_regions_refused : regionsApart [⟨.rng, 0x0F00, 0x0F02⟩, ⟨.console, 0x0F01, 0x0F03⟩] = false := by
  decide
theorem test_region_over_stack_refused : (Params.mk 0 [⟨.console, 0x00FF, 0x0100⟩] 1 256 256).regionMapOk = false := by
  decide
theorem test_region_over_code_refused : (Params.mk 2 [⟨.console, 0x0101, 0x0102⟩] 1 256 256).regionMapOk = false := by
  decide
theorem test_long_program_refused : (Params.mk 0xFEFF [] 1 256 256).programFits = false := by decide
theorem test_mailbox_geometry_refused : (Params.mk 0 [] 1 0 256).mailboxesOk = false ∧
    (Params.mk 0 [] 1 256 257).mailboxesOk = false := by decide
theorem test_agent_id_refused : (Role.agent 4#8).fits (Params.mk 0 [] 1 256 4) = false := by decide
theorem test_zero_seed_refused : construct { Launch.reset with rngSeed := 0#8 } PowerOn.reset = .error .seed := by rfl
theorem test_image_without_region_refused :
    construct { Launch.reset with storageImage := [1#8] } PowerOn.reset = .error .storageImage := by rfl

/-! ### Decoding: words written out from the patterns of 30_encoding R71 and R79 -/

theorem test_decode_nop : decode 0b0000000000000000#16 = .ok .nop := by rfl
theorem test_decode_halt : decode 0b0000000100000101#16 = .ok (.halt 5#8) := by rfl
theorem test_decode_mov : decode 0b0001000011011110#16 = .ok (.mov .sp .pc) := by rfl
theorem test_decode_add : decode 0b0001000111101100#16 = .ok (.add .pc .i) := by rfl
theorem test_decode_sub : decode 0b0001001000000001#16 = .ok (.sub (.gpr 0) (.gpr 1)) := by rfl
theorem test_decode_ldi : decode 0b0010110000000011#16 = .ok (.ldi .i 3#8) := by rfl
theorem test_decode_jmp : decode 0b0011000100100000#16 = .ok (.jmp 0x120#12) := by rfl
theorem test_decode_jz : decode 0b0100000100100000#16 = .ok (.jz 0x120#12) := by rfl
theorem test_decode_jnz : decode 0b0101000100000100#16 = .ok (.jnz 0x104#12) := by rfl
theorem test_decode_call : decode 0b0110111111111111#16 = .ok (.call 0xFFF#12) := by rfl
theorem test_decode_ret : decode 0b0111000000000000#16 = .ok .ret := by rfl
theorem test_decode_push : decode 0b0111000100110000#16 = .ok (.push (.gpr 3)) := by rfl
theorem test_decode_pop : decode 0b0111001011110000#16 = .ok (.pop .f) := by rfl
theorem test_decode_ld : decode 0b1000111111111111#16 = .ok (.ld 0xFFF#12) := by rfl
theorem test_decode_st : decode 0b1001000000000000#16 = .ok (.st 0x000#12) := by rfl
theorem test_decode_gld : decode 0b1010000011000010#16 = .ok (.gld .i (.gpr 2)) := by rfl
theorem test_decode_gst : decode 0b1010000100010010#16 = .ok (.gst (.gpr 1) (.gpr 2)) := by rfl
theorem test_decode_putc : decode 0b1011000000110000#16 = .ok (.putc (.gpr 3)) := by rfl

theorem test_reject_group : decode 0xC000#16 = .error .unknownGroup := by rfl
theorem test_reject_selector : decode 0xA200#16 = .error .unknownSubSelector := by rfl
theorem test_reject_register : decode 0x2800#16 = .error .invalidRegister := by rfl
theorem test_reject_filler : decode 0xB001#16 = .error .nonzeroFiller := by rfl
theorem test_decode_stream : decodeBytes [0x70#8, 0x00#8, 0x01#8] = .instr .ret [0x01#8] := by rfl
theorem test_decode_half_word : decodeBytes [0x01#8] = .partialWord 0x01#8 := by rfl
theorem test_table_word : decodeTableWord 16 0x2003 = some (.ldi (.gpr 0) 3#8) := by rfl

/-! ### One step of each instruction: the vectors of 95_test_vectors -/

/-- The state a result answers, if it answers one. -/
def stateOf : Result → State
  | .next t => t
  | .fault _ => State.reset
  | .refused _ => State.reset

/-- The state after one step from `s` with the word `w` placed at PC. -/
def stepOn (w : Nat) (s : State) : State := stateOf (step (s.withFetchWord 16 w))

/-- Reset, with two registers set through the W port. -/
def regs (r : Reg) (v : Word) (r' : Reg) (v' : Word) : State := (State.reset.writeReg r v).writeReg r' v'

/-- The example region configuration of 95_test_vectors, with a Storage region added. -/
def exParams : Params :=
  { progLen := 16
    regionMap := [⟨.frameBuffer, 0x0A00, 0x0C00⟩, ⟨.storage, 0x0C00, 0x0D00⟩, ⟨.console, 0x0F00, 0x0F01⟩,
      ⟨.keyboard, 0x0F01, 0x0F02⟩, ⟨.rng, 0x0F02, 0x0F03⟩]
    fbBytesPerRow := 8, mailboxSize := 16, numAgents := 4 }

/-- Reset under that configuration, with SP, PC and R0 given. -/
def ex (sp : Byte) (pc : Word) (r0 : Byte) : State :=
  { State.reset with params := exParams, sp := sp, pc := pc, gpr := State.reset.gpr.set 0 r0 }

/-- A 2 (L1-3 (b)): ADD R0, R1 of 0xFF and 0xFF. -/
theorem test_add_carry : let t := stepOn 0x1101 (regs (.gpr 0) 0xFF#16 (.gpr 1) 0xFF#16)
    t.readReg (.gpr 0) = 0xFE#16 ∧ t.f = 0x0E#8 := by decide
/-- A11: ADD R0, PC at pc0 = 0x0102. -/
theorem test_add_pc : let t := stepOn 0x110E (regs (.gpr 0) 1#16 .pc 0x0102#16)
    t.readReg (.gpr 0) = 0x05#16 ∧ t.f = 0x0A#8 := by decide
/-- A6: SUB R0, R1 of 3 and 5. -/
theorem test_sub_borrow : let t := stepOn 0x1201 (regs (.gpr 0) 3#16 (.gpr 1) 5#16)
    t.readReg (.gpr 0) = 0xFE#16 ∧ t.f = 0x0E#8 := by decide
/-- A12: SUB PC, R0 at pc0 = 0x0104. -/
theorem test_sub_to_pc : let t := stepOn 0x12E0 (regs (.gpr 0) 0x10#16 .pc 0x0104#16)
    t.pc = 0x00F6#16 ∧ t.f = 0x04#8 := by decide
/-- A13: MOV F, R0 of 0xFF. -/
theorem test_mov_to_f : (stepOn 0x10F0 (regs (.gpr 0) 0xFF#16 .f 0#16)).f = 0x0F#8 := by decide
/-- A14: MOV R1, PC at pc0 = 0x01FE. -/
theorem test_mov_from_pc : let t := stepOn 0x101E (regs (.gpr 1) 0x77#16 .pc 0x01FE#16)
    t.readReg (.gpr 1) = 0x00#16 ∧ t.pc = 0x0200#16 := by decide
/-- A19: LDI F, 0xFF. -/
theorem test_ldi_f : (stepOn 0x2FFF State.reset).f = 0x0F#8 := by decide
/-- A18: LDI PC, 0x40, and the AddressFault of the next step. -/
theorem test_ldi_pc : let t := stepOn 0x2E40 State.reset
    t.pc = 0x0040#16 ∧ (stateOf (step t)).haltReason = .addressFault (.fetch 0x0040#16) := by decide
/-- C5: JMP 0xFFF. -/
theorem test_jmp : (stepOn 0x3FFF State.reset).pc = 0x0FFF#16 := by decide
/-- C1, C2: JZ with Z set and clear. -/
theorem test_jz : (stepOn 0x4120 (regs .f 1#16 .i 0#16)).pc = 0x0120#16 ∧
    (stepOn 0x4120 (regs .f 0#16 .i 0#16)).pc = 0x0102#16 := by decide
/-- C3, C4: JNZ with Z clear and set. -/
theorem test_jnz : (stepOn 0x5120 (regs .f 0#16 .i 0#16)).pc = 0x0120#16 ∧
    (stepOn 0x5120 (regs .f 1#16 .i 0#16)).pc = 0x0102#16 := by decide
/-- C7: CALL 0x020 at pc0 = 0x0110 with SP = 253. -/
theorem test_call : let t := stepOn 0x6020 (regs .sp 253#16 .pc 0x0110#16)
    t.memByte 0x0001#16 = 0x01#8 ∧ t.memByte 0x0002#16 = 0x12#8 ∧ t.sp = 255#8 ∧ t.pc = 0x0120#16 := by decide
/-- C8: the same with SP = 254. -/
theorem test_call_overflow : let t := stepOn 0x6020 (regs .sp 254#16 .pc 0x0110#16)
    t.haltReason = .stackOverflow ∧ t.sp = 254#8 ∧ t.pc = 0x0112#16 ∧ t.memByte 0x0001#16 = 0#8 := by decide
/-- C12: RET with SP = 2 over the bytes 0x01, 0x20. -/
theorem test_ret : let s := ((regs .sp 2#16 .i 0#16).setMemByte 0x00FE#16 0x01#8).setMemByte 0x00FF#16 0x20#8
    let t := stepOn 0x7000 s
    t.pc = 0x0120#16 ∧ t.sp = 0#8 := by decide
/-- C11: RET with SP = 1. -/
theorem test_ret_underflow : let t := stepOn 0x7000 (regs .sp 1#16 .i 0#16)
    t.haltReason = .stackUnderflow ∧ t.sp = 1#8 ∧ t.pc = 0x0102#16 := by decide
/-- K5: PUSH SP with SP = 5. -/
theorem test_push_sp : let t := stepOn 0x71D0 (regs .sp 5#16 .i 0#16)
    t.memByte 0x00FA#16 = 0x05#8 ∧ t.sp = 6#8 := by decide
/-- K2: PUSH R0 with SP = 255. -/
theorem test_push_overflow : let t := stepOn 0x7100 (regs .sp 255#16 .i 0#16)
    t.haltReason = .stackOverflow ∧ t.sp = 255#8 := by decide
/-- K6: POP SP with SP = 5 over 0x80. -/
theorem test_pop_sp : (stepOn 0x72D0 ((regs .sp 5#16 .i 0#16).setMemByte 0x00FB#16 0x80#8)).sp = 0x80#8 := by decide
/-- K3: POP R0 with SP = 0. -/
theorem test_pop_underflow : let t := stepOn 0x7200 State.reset
    t.haltReason = .stackUnderflow ∧ t.pc = 0x0102#16 := by decide
/-- M1: LD 0xFFF of a plain byte. -/
theorem test_ld : (stepOn 0x8FFF (State.reset.setMemByte 0x0FFF#16 0x9C#8)).readReg (.gpr 0) = 0x9C#16 := by decide
/-- M4: LD of an Rng address is the next draw, and the generator advances. -/
theorem test_ld_rng : (stepOn 0x8F02 (ex 0#8 0x0100#16 0#8)).gpr[0] = trunc8 (zext16 (Config.rngByte 1#8 0)) ∧
    (stepOn 0x8F02 (ex 0#8 0x0100#16 0#8)).rngDraws = 1 := ⟨rfl, rfl⟩
/-- M3: ST to a Console address stores and appends. -/
theorem test_st_console : let t := stepOn 0x9F00 (ex 0#8 0x0100#16 0x48#8)
    t.memByte 0x0F00#16 = 0x48#8 ∧ t.console = [0x48#8] := by decide
/-- M5: ST to an Rng address has no effect. -/
theorem test_st_rng : let t := stepOn 0x9F02 (ex 0#8 0x0100#16 0x48#8)
    t.memByte 0x0F02#16 = 0#8 ∧ t.rngDraws = 0 ∧ t.console = [] := by decide
/-- G2: GLD R3, R2 as Agent(1), whatever R2 holds. -/
theorem test_gld_agent : let s := ((regs .i 3#16 (.gpr 2) 0#16).mbWrite 1#8 3#16 0x41#8).mbWrite 0#8 3#16 0x99#8
    (stepOn 0xA032 { s with role := .agent 1#8 }).readReg (.gpr 3) = 0x41#16 := by decide
/-- G7: GLD with both a bad mailbox id and a bad offset faults on the id. -/
theorem test_gld_fault_order : let s := (((ex 0#8 0x0100#16 0#8).writeReg (.gpr 2) 9#16).writeReg .i 16#16)
    (stepOn 0xA002 { s with role := .arbiter }).haltReason = .addressFault (.mailbox 9#8) := by decide
/-- G1: GST R1, R2 as Agent(1) ignores R2. -/
theorem test_gst_agent : let s := (regs (.gpr 1) 0x41#16 (.gpr 2) 0xEE#16).writeReg .i 3#16
    (stepOn 0xA112 { s with role := .agent 1#8 }).mailboxes = [(65536 + 3, 0x41#8)] := by decide
/-- G3: GST R1, R2 as the arbiter reaches mailbox 2. -/
theorem test_gst_arbiter : let s := regs (.gpr 1) 0x55#16 (.gpr 2) 2#16
    (stepOn 0xA112 { s with role := .arbiter }).mbRead 2#8 0#16 = 0x55#8 := by decide
/-- P2: PUTC PC at pc0 = 0x1234. -/
theorem test_putc_pc : (stepOn 0xB0E0 (regs .pc 0x1234#16 .i 0#16)).console = [0x36#8] := by decide
/-- S6: NOP at an odd PC. -/
theorem test_nop_odd : (stepOn 0x0000 (regs .pc 0x0101#16 .i 0#16)).pc = 0x0103#16 := by decide
/-- S7: HALT 7 at pc0 = 0x0108. -/
theorem test_halt : let t := stepOn 0x0107 (regs .pc 0x0108#16 .i 0#16)
    t.halted = true ∧ t.haltReason = .halt 7#8 ∧ t.pc = 0x010A#16 := by decide
/-- S1: a PC below CODE_BASE. -/
theorem test_fetch_below : let t := stateOf (step (ex 0#8 0x00FF#16 0#8))
    t.haltReason = .addressFault (.fetch 0x00FF#16) ∧ t.pc = 0x00FF#16 := by decide
/-- S3: the trailing byte of a program of odd length. -/
theorem test_trailing_byte :
    let t := stateOf (step ({ State.reset with pc := 0x0102#16, params := { resetParams with progLen := 3 } }.setMemByte
      0x0102#16 0x01#8))
    t.haltReason = .decodeError (.partialByte 0x01#8) ∧ t.pc = 0x0104#16 := by decide
/-- S4: a word that does not decode. -/
theorem test_undecodable : let t := stepOn 0xC000 State.reset
    t.haltReason = .decodeError (.word 0xC000#16) ∧ t.pc = 0x0102#16 := by decide
/-- L1-7: 0x80 stored to the frame buffer's first byte sets pixel (0, 0) and clears (1, 0). -/
theorem test_pixels : let t := stepOn 0x9A00 (ex 0#8 0x0100#16 0x80#8)
    t.pixel ⟨.frameBuffer, 0x0A00, 0x0C00⟩ 0 0 = true ∧ t.pixel ⟨.frameBuffer, 0x0A00, 0x0C00⟩ 1 0 = false := by decide
/-- A two-byte access at 0xFFFF is an AddressFault (20_memory R52). -/
theorem test_past_end : State.reset.memRead16 0xFFFF#16 = .error (.addressFault (.access 0xFFFF#16)) := by rfl

/-! ### Witnesses: concrete states and operands that meet the hypotheses of the statements -/

theorem ex_inv (sp : Byte) (pc : Word) (r0 : Byte) : (ex sp pc r0).Inv := by
  constructor
  case flags_reserved => exact (by decide : flagBits 0#8 = 0#8)
  all_goals first | rfl | simp [ex, State.reset]

theorem reset_inv : State.reset.Inv := by constructor <;> decide

/-- `ex` with the word `w` at PC. -/
def exWord (pc : Word) (w : Nat) : State := (ex 0#8 pc 0#8).placeWord pc (BitVec.ofNat 16 w)

/-- Fetching at the first and at the last whole word of the program. -/
theorem witness_fetches : (exWord 0x0100#16 0x1101).fetches 0x1101#16 ∧ (exWord 0x010E#16 0xC000).fetches 0xC000#16 ∧
    decode 0x1101#16 = .ok (.add (.gpr 0) (.gpr 1)) ∧ decode 0xC000#16 = .error .unknownGroup := by
  simp only [State.fetches]
  decide
theorem witness_undecodable : undecodable 0xC000#16 ∧ undecodable 0x0001#16 ∧ undecodable 0x12B0#16 := by
  norm_num [undecodable, badCode]
theorem witness_fetch_outside : (ex 0#8 0x00FF#16 0#8).pc.toNat < Config.codeBase ∧
    exParams.progEnd ≤ (ex 0#8 0x0110#16 0#8).pc.toNat ∧ (ex 0#8 0x00FF#16 0#8).halted = false := by decide
theorem witness_half_word : (ex 0#8 0x010F#16 0#8).pc.toNat + 1 = exParams.progEnd ∧
    Config.codeBase ≤ (ex 0#8 0x010F#16 0#8).pc.toNat ∧ exParams.progEnd ≤ Config.progEndMax := by decide
theorem witness_halted : (State.reset.haltWith (.halt 0#8)).halted = true := rfl
/-- A halting step of each kind: before the advance, after it, and by HALT. -/
theorem witness_halting_steps :
    (∃ t, step (ex 0#8 0x00FF#16 0#8) = .next t ∧ t.halted = true) ∧
    (∃ t, step (exWord 0x0100#16 0xC000) = .next t ∧ t.halted = true) ∧
    ∃ t, step (exWord 0x0100#16 0x0107) = .next t ∧ t.halted = true :=
  ⟨⟨_, rfl, rfl⟩, ⟨_, rfl, rfl⟩, ⟨_, rfl, rfl⟩⟩
/-- Each way an instruction halts. -/
theorem witness_halting_instructions :
    (stateOf (exec (.halt 3#8) (ex 0#8 0x0100#16 0#8))).halted = true ∧
    (stateOf (exec (.call 0#12) (ex 254#8 0x0100#16 0#8))).halted = true ∧
    (stateOf (exec (.push .f) (ex 255#8 0x0100#16 0#8))).halted = true ∧
    (stateOf (exec .ret (ex 1#8 0x0100#16 0#8))).halted = true ∧
    (stateOf (exec (.pop .f) (ex 0#8 0x0100#16 0#8))).halted = true ∧
    (stateOf (exec (.gld .f .f) { ex 0#8 0x0100#16 0#8 with i := 16#16 })).halted = true ∧
    (stateOf (exec (.gst .f .sp) { ex 4#8 0x0100#16 0#8 with role := .arbiter })).halted = true := by decide

/-- A launch with a program of odd length, an image and regions. -/
def exLaunch : Launch :=
  { Launch.reset with program := [0x00#8, 0x00#8, 0x01#8], storageImage := [7#8, 8#8], regionMap := exParams.regionMap }

theorem witness_construct : ∃ s, construct exLaunch { PowerOn.reset with mem := [(5, 9#8), (99999, 1#8)] } = .ok s ∧
    s.mem = [(5, 9#8), (258, 1#8), (0x0C00, 7#8), (0x0C01, 8#8)] := ⟨_, rfl, by decide⟩
/-- The first address after the program and after the image, and the last byte of the last mailbox. -/
theorem witness_construct_draw : Config.codeBase + exLaunch.program.length = (0x0103#16 : Word).toNat ∧
    0x0C00 + exLaunch.storageImage.length = (0x0C02#16 : Word).toNat ∧
    (0xFF#8 : Byte).toNat < exLaunch.numAgents ∧ (0x00FF#16 : Word).toNat < exLaunch.mailboxSize := by decide
theorem witness_construct_region : exLaunch.storageRegion = some ⟨.storage, 0x0C00, 0x0D00⟩ := by decide
theorem witness_step_keeps_inv : (ex 0#8 0x0100#16 0#8).Inv ∧ ∃ t, step (ex 0#8 0x0100#16 0#8) = .next t :=
  ⟨ex_inv _ _ _, _, rfl⟩

/-- An arbiter and Agent(2) over one store. -/
def exArbiter : State := { ex 2#8 0x0100#16 0#8 with role := .arbiter }
def exAgent : State := { ex 0#8 0x0100#16 0#8 with role := .agent 2#8 }
def exScenario : Scenario := ⟨[exArbiter, exAgent], []⟩

theorem exArbiter_inv : exArbiter.Inv := by constructor <;> decide
theorem exAgent_inv : exAgent.Inv := by constructor <;> decide
theorem witness_scenario : (∀ s ∈ exScenario.instances, (exScenario.sees s).Inv) ∧
    (∀ s ∈ exScenario.instances, ∀ s' ∈ exScenario.instances,
      s.params.numAgents = s'.params.numAgents ∧ s.params.mailboxSize = s'.params.mailboxSize) ∧
    exScenario.instances[1]? = some exAgent ∧ ∃ sc', exScenario.move 1 .step = .next sc' := by
  refine ⟨?_, by decide, rfl, _, rfl⟩
  intro s hs
  simp only [exScenario, List.mem_cons, List.not_mem_nil, or_false] at hs
  rcases hs with rfl | rfl
  · exact exArbiter_inv
  · exact exAgent_inv
theorem witness_message : exArbiter.Inv ∧ exArbiter.role = .arbiter ∧ exAgent.role = .agent 2#8 ∧
    (exArbiter.readReg .sp).toNat % 256 = (2#8 : Byte).toNat ∧ exArbiter.i = exAgent.i ∧
    exArbiter.params = exAgent.params ∧ (2#8 : Byte).toNat < exAgent.params.numAgents ∧
    exAgent.i.toNat < exAgent.params.mailboxSize :=
  ⟨exArbiter_inv, by decide, by decide, by decide, by decide, by decide, by decide, by decide⟩
/-- A GLD and a GST that pass their checks, at the last offset, and each fault. -/
theorem witness_mailbox_checks :
    (targetMailbox (.agent 3#8) 9#16).toNat < exParams.numAgents ∧ (15#16 : Word).toNat < exParams.mailboxSize ∧
    exParams.numAgents ≤ (targetMailbox .arbiter 4#16).toNat ∧ exParams.mailboxSize ≤ (16#16 : Word).toNat := by decide
theorem witness_agent_target :
    exAgent.mailboxTarget (.gpr 0) = .ok (2#8, 0#16) ∧ ¬ reachesMailbox .nop ∧ exAgent.mailboxes.wf = true ∧
    (∀ o, Memory.read [] (mailboxKey 2#8 o) = exAgent.mbRead 2#8 o) ∧
    exAgent.role = .agent 2#8 ∧ Memory.wf [] = true ∧
    ∃ t, runMoves [.step, .key 0x0F01#16 3#8] exAgent = .next t :=
  ⟨by decide, by simp [reachesMailbox], by decide, fun _ => rfl, rfl, rfl, _, rfl⟩
/-- Two roles that pick the same mailbox. -/
theorem witness_same_mailbox : targetMailbox .arbiter (exArbiter.readReg .sp) = targetMailbox (.agent 2#8) 0#16 := by
  decide
theorem witness_index_byte : (ex 0#8 0x0100#16 0#8).i.toNat ≤ 255 ∧ ({ State.reset with i := 255#16 }).i.toNat ≤ 255 := by
  decide
theorem witness_nop_fetch : (exWord 0x0100#16 0x0000).fetches 0x0000#16 := by
  simp only [State.fetches]
  decide
theorem witness_halt_fetch : (exWord 0x0100#16 0x01FF).fetches (BitVec.ofNat 16 (0x0100 + (0xFF#8 : Byte).toNat)) := by
  simp only [State.fetches]
  decide
theorem witness_jmp_loop : (exWord 0x0102#16 0x3102).pc.toNat = (0x102#12 : BitVec 12).toNat ∧
    (exWord 0x0102#16 0x3102).fetches (BitVec.ofNat 16 (0x3000 + (0x102#12 : BitVec 12).toNat)) := by
  simp only [State.fetches]
  decide
theorem witness_jmp_outside : (0x0FF#12 : BitVec 12).toNat < Config.codeBase ∧
    exParams.progEnd ≤ (0x110#12 : BitVec 12).toNat := by decide
theorem witness_flags : (State.reset).f.toNat % 2 = 0 ∧ ({ State.reset with f := 1#8 }).f.toNat % 2 = 1 := by decide
theorem witness_alu_operands : (300 : Nat) = (ex 0#8 0x0105#16 39#8).pc.toNat + ((ex 0#8 0x0105#16 39#8).readReg (.gpr 0)).toNat ∧
    (1 : Nat) = (if 255 < 300 then 1 else 0) := by decide
/-- SP at the last value that lets a CALL and a PUSH pass, and at the first that does not. -/
theorem witness_push_bounds : (ex 253#8 0x0100#16 0#8).Inv ∧ (253#8 : Byte).toNat + 2 < Config.stackSize ∧
    Config.stackSize ≤ (254#8 : Byte).toNat + 2 ∧ (254#8 : Byte).toNat + 1 < Config.stackSize ∧
    (255#8 : Byte).toNat = 255 :=
  ⟨ex_inv _ _ _, by decide, by decide, by decide, by decide⟩
/-- SP at the first value that lets a RET and a POP pass, and at the last that does not. -/
theorem witness_pop_bounds : (ex 2#8 0x0100#16 0#8).Inv ∧ 2 ≤ (2#8 : Byte).toNat ∧ (1#8 : Byte).toNat < 2 ∧
    1 ≤ (1#8 : Byte).toNat ∧ (0#8 : Byte).toNat = 0 :=
  ⟨ex_inv _ _ _, by decide, by decide, by decide, by decide⟩
/-- A CALL whose target, and a RET whose popped address, lie outside the code region. -/
theorem witness_transfer_outside :
    exParams.progEnd ≤ (stateOf (exec (.call 0x010#12) (ex 0#8 0x0102#16 0#8))).pc.toNat ∧
    (stateOf (exec .ret (ex 2#8 0x0102#16 0#8))).pc.toNat < Config.codeBase := by decide
/-- The map passes, and its regions own their first and last addresses. -/
theorem witness_owners : exParams.regionMapOk = true ∧ owner exParams.regionMap 0x0A00#16 = some .frameBuffer ∧
    owner exParams.regionMap 0x0BFF#16 = some .frameBuffer ∧ owner exParams.regionMap 0x0C00#16 = some .storage ∧
    owner exParams.regionMap 0x0F00#16 = some .console ∧ owner exParams.regionMap 0x0F01#16 = some .keyboard ∧
    owner exParams.regionMap 0x0F02#16 = some .rng ∧ owner exParams.regionMap 0x0F03#16 = none := by decide
/-- The last address of the stack region, and the first and last of the code region. -/
theorem witness_plain_bounds : (0x00FF#16 : Word).toNat < Config.stackSize ∧
    Config.codeBase ≤ (0x0100#16 : Word).toNat ∧ (0x010F#16 : Word).toNat < exParams.progEnd := by decide
/-- An ST over the low byte of the word at PC that makes it HALT 7. -/
theorem witness_self_modify : let s := (ex 0#8 0x0104#16 7#8).setMemByte 0x0104#16 0x01#8
    s.Inv ∧ s.halted = false ∧ Config.codeBase ≤ s.pc.toNat ∧ s.pc.toNat + 1 < s.params.progEnd ∧
    (0x105#12 : BitVec 12).toNat = s.pc.toNat + 1 ∧
    decode (wordOfBytes (s.memByte s.pc) (BitVec.ofNat 8 (s.readReg (.gpr 0)).toNat)) = .ok (.halt 7#8) :=
  ⟨by constructor <;> decide, rfl, by decide, by decide, by decide, rfl⟩
/-- An ST that reads back: a plain, a console and a keyboard address, and R0 at its largest. -/
theorem witness_read_back : (ex 0#8 0x0100#16 0xFF#8).Inv ∧
    (ex 0#8 0x0100#16 0xFF#8).ownerOf (absAddr 0xFFF#12) ≠ some .rng ∧
    (ex 0#8 0x0100#16 0xFF#8).ownerOf (absAddr 0xF00#12) ≠ some .rng ∧
    (ex 0#8 0x0100#16 0xFF#8).ownerOf (absAddr 0xF01#12) ≠ some .rng :=
  ⟨ex_inv _ _ _, by decide, by decide, by decide⟩
/-- Each owner's clause of LD and ST at an address of 12 bits. -/
theorem witness_load_store : (ex 0#8 0x0100#16 0#8).ownerOf 0x0F02#16 = some .rng ∧
    (ex 0#8 0x0100#16 0#8).ownerOf 0x0F01#16 = some .keyboard ∧
    (ex 0#8 0x0100#16 0#8).ownerOf 0x0F00#16 = some .console ∧ (ex 0#8 0x0100#16 0#8).ownerOf 0x0FFF#16 = none ∧
    (0x0F02#16 : Word).toNat = (0xF02#12 : BitVec 12).toNat ∧ (0x0FFF#16 : Word).toNat = (0xFFF#12 : BitVec 12).toNat := by
  decide
/-- The last byte of the first row of the frame buffer, and its first byte. -/
theorem witness_frame_buffer : (ex 0#8 0x0100#16 0x80#8).Inv ∧
    ⟨.frameBuffer, 0x0A00, 0x0C00⟩ ∈ (ex 0#8 0x0100#16 0x80#8).params.regionMap ∧
    7 < exParams.fbBytesPerRow ∧ (0xA07#12 : BitVec 12).toNat = 0x0A00 + 0 * exParams.fbBytesPerRow + 7 ∧
    (0xA00#12 : BitVec 12).toNat = 0x0A00 + 0 * exParams.fbBytesPerRow + 0 ∧
    (0xA07#12 : BitVec 12).toNat < 0x0C00 ∧ (ex 0#8 0x0100#16 0x80#8).readReg (.gpr 0) = 0x0080#16 :=
  ⟨ex_inv _ _ _, by decide⟩
theorem witness_keyboard : (ex 0#8 0x0100#16 0#8).Inv ∧
    (ex 0#8 0x0100#16 0#8).ownerOf (absAddr 0xF01#12) = some .keyboard ∧
    (ex 0#8 0x0100#16 0#8).ownerOf (absAddr 0xF03#12) ≠ some .keyboard := ⟨ex_inv _ _ _, by decide, by decide⟩

end Sys2Proof.Machine.Tests
end

section
/-! Proofs about the register file's ports (10_state R17, R18): what a write keeps of the value, and its frame. -/

namespace Sys2Proof.Machine

/-! ### Narrowing, said in numbers -/

theorem trunc8_toNat (v : Word) : (trunc8 v).toNat = v.toNat % 256 := BitVec.toNat_setWidth 8 v

theorem flagBits_toNat (b : Byte) : (flagBits b).toNat = b.toNat % 16 := by
  rw [flagBits, BitVec.toNat_and]
  exact Nat.and_two_pow_sub_one_eq_mod b.toNat 4

theorem flagBits_trunc8_toNat (v : Word) : (flagBits (trunc8 v)).toNat = v.toNat % 16 := by
  rw [flagBits_toNat, trunc8_toNat]
  omega

/-- A byte of known value, zero-extended, is that value as a word. -/
theorem zext16_eq_ofNat {b : Byte} {n : Nat} (h : b.toNat = n) : zext16 b = BitVec.ofNat 16 n := by
  rw [← h, BitVec.ofNat_toNat, zext16]

/-! ### Read ports -/

section ReadPorts
variable (s : State)

@[simp] theorem readReg_gpr (n : Fin 8) : s.readReg (.gpr n) = zext16 s.gpr[n] := rfl
@[simp] theorem readReg_i : s.readReg .i = s.i := rfl
@[simp] theorem readReg_sp : s.readReg .sp = zext16 s.sp := rfl
@[simp] theorem readReg_pc : s.readReg .pc = s.pc := rfl
@[simp] theorem readReg_f : s.readReg .f = zext16 (flagBits s.f) := rfl

end ReadPorts

/-! ### The W port -/

section WritePort
variable (s : State)

theorem readReg_writeReg_gpr (n : Fin 8) (v : Word) : (s.writeReg (.gpr n) v).readReg (.gpr n) = zext16 (trunc8 v) := by
  simp

theorem readReg_writeReg_sp (v : Word) : (s.writeReg .sp v).readReg .sp = zext16 (trunc8 v) := by simp

theorem readReg_writeReg_f (v : Word) : (s.writeReg .f v).readReg .f = zext16 (flagBits (trunc8 v)) := by simp

/-- A write reaches one register. Two general registers differ by their index, and any others by their field. -/
theorem readReg_writeReg_other {r q : Reg} (v : Word) (h : q ≠ r) : (s.writeReg r v).readReg q = s.readReg q := by
  cases q with
  | gpr m =>
    cases r with
    | gpr n =>
      have hmn : (n : Nat) ≠ m := fun e => h (by rw [Fin.ext e])
      simp [Vector.getElem_set_ne, hmn]
    | i | sp | pc | f => simp [writeReg_gpr]
  | i => simp [writeReg_i s r v h.symm]
  | sp => simp [writeReg_sp s r v h.symm]
  | pc => simp [writeReg_pc s r v h.symm]
  | f => simp [writeReg_f s r v h.symm]

theorem sameRegsBut_writeReg (r : Reg) (v : Word) : SameRegsBut [r] s (s.writeReg r v) := fun _ hq =>
  readReg_writeReg_other s v (List.ne_of_not_mem_cons hq)

theorem onlyRegs_writeReg (r : Reg) (v : Word) : OnlyRegs s (s.writeReg r v) := by
  simp [OnlyRegs, SameMem, SameMailboxes, SameLatch, SameRng, SameConsole, SameControl, State.memByte, State.mbRead,
    State.latch]

end WritePort

/-- Settles O20: the value read back by a case per kind of register, and the two frames of the W port. -/
theorem registerWriteThenRead : Obligations.RegisterWriteThenRead := by
  intro s r v
  refine ⟨?_, ?_, sameRegsBut_writeReg s r v, onlyRegs_writeReg s r v⟩
  · cases r with
    | gpr n => exact (readReg_writeReg_gpr s n v).trans (zext16_eq_ofNat (trunc8_toNat v))
    | i | pc => rfl
    | sp => exact (readReg_writeReg_sp s v).trans (zext16_eq_ofNat (trunc8_toNat v))
    | f => exact (readReg_writeReg_f s v).trans (zext16_eq_ofNat (flagBits_trunc8_toNat v))
  · rintro rfl
    exact flagBits_trunc8_toNat v

end Sys2Proof.Machine
end

section
/-! Proofs about the region map (20_memory R38, R40): regions that lie apart cover an address at most once. -/

namespace Sys2Proof.Machine

/-! ### The host's constraints on a region map, as propositions -/

theorem regionCovers_iff (r : Region) (a : Word) :
    regionCovers r a = true ↔ r.start ≤ a.toNat ∧ a.toNat < r.stop := by
  simp [regionCovers]

theorem apartFrom_iff (r : Region) (lo hi : Nat) : r.apartFrom lo hi = true ↔ r.stop ≤ lo ∨ hi ≤ r.start := by
  simp [Region.apartFrom]

theorem regionsApart_iff_pairwise (regions : List Region) :
    regionsApart regions = true ↔ regions.Pairwise (fun r q => q.apartFrom r.start r.stop = true) := by
  induction regions with
  | nil => simp [regionsApart]
  | cons r rs ih => simp [regionsApart, ih]

theorem regionMapOk_iff (p : Params) :
    p.regionMapOk = true ↔
      (∀ r ∈ p.regionMap, r.inSpace = true) ∧ regionsApart p.regionMap = true ∧
      (∀ r ∈ p.regionMap, r.apartFrom Config.stackBase (Config.stackBase + Config.stackSize) = true) ∧
      ∀ r ∈ p.regionMap, r.apartFrom Config.codeBase p.progEnd = true := by
  simp only [Params.regionMapOk, Bool.and_eq_true, List.all_eq_true, and_assoc]

/-! ### At most one region covers an address -/

/-- Constraint 2 of R38 as the router needs it: about addresses, and so plainly symmetric in the two regions. -/
def SharesNoAddress (r q : Region) : Prop := ∀ a : Word, regionCovers r a = true → ¬ regionCovers q a = true

theorem sharesNoAddress_symm : Std.Symm SharesNoAddress :=
  ⟨fun _ _ h a hq hr => h a hr hq⟩

theorem sharesNoAddress_of_apartFrom {r q : Region} (h : q.apartFrom r.start r.stop = true) :
    SharesNoAddress r q := by
  intro a hr hq
  rw [regionCovers_iff] at hr hq
  rw [apartFrom_iff] at h
  omega

section Covering
variable {regions : List Region} {a : Word} {r q : Region}

theorem covering_region_unique (hapart : regionsApart regions = true) (hr : r ∈ regions) (hq : q ∈ regions)
    (hra : regionCovers r a = true) (hqa : regionCovers q a = true) : q = r := by
  have hpairs : regions.Pairwise SharesNoAddress :=
    ((regionsApart_iff_pairwise regions).1 hapart).imp sharesNoAddress_of_apartFrom
  have hsymm := sharesNoAddress_symm
  by_contra hne
  exact hpairs.forall hq hr hne a hqa hra

/-! ### The owner of an address -/

theorem owner_eq_none_iff : owner regions a = none ↔ ∀ r ∈ regions, ¬ regionCovers r a = true := by
  simp [owner]

/-- The first region that covers an address is the only one, so any region that covers it tells its owner. -/
theorem owner_eq_kind_of_covers (hapart : regionsApart regions = true) (hr : r ∈ regions)
    (hra : regionCovers r a = true) : owner regions a = some r.kind := by
  unfold owner
  cases hfind : regions.find? (fun q => regionCovers q a) with
  | none => exact absurd hra (List.find?_eq_none.1 hfind r hr)
  | some q =>
    have hqa := List.find?_some hfind
    have hqr : q = r := covering_region_unique hapart hr (List.mem_of_find?_eq_some hfind) hra hqa
    rw [hqr, Option.map_some]

end Covering

/-- Settles O44: a region that covers the address is the only one and gives the owner, and without one the search for
an owner finds none. -/
theorem eachAddressHasOneOwner : Obligations.EachAddressHasOneOwner := by
  intro p a hok
  obtain ⟨-, hapart, -, -⟩ := (regionMapOk_iff p).1 hok
  simp only [← regionCovers_iff]
  by_cases hcov : ∃ r ∈ p.regionMap, regionCovers r a = true
  · obtain ⟨r, hr, hra⟩ := hcov
    exact .inl ⟨r, hr, hra, owner_eq_kind_of_covers hapart hr hra,
      fun q hq hqa => covering_region_unique hapart hr hq hra hqa⟩
  · have hnone : ∀ r ∈ p.regionMap, ¬ regionCovers r a = true := fun r hr hra => hcov ⟨r, hr, hra⟩
    exact .inr ⟨hnone, owner_eq_none_iff.2 hnone⟩

end Sys2Proof.Machine
end

section
/-! Proofs about the words that do not decode (30_encoding R80), group by group, and about the step that fetches one
(40_cycle R89). -/

namespace Sys2Proof.Machine

/-! ### The fields of a word, said in numbers (30_encoding R71) -/

/-- Bits 15:12. -/
def groupField (w : Word) : Nat := w.toNat / 4096

/-- Bits 11:8. -/
def subField (w : Word) : Nat := w.toNat / 256 % 16

/-- Bits 7:4. -/
def hiField (w : Word) : Nat := w.toNat / 16 % 16

/-- Bits 3:0. -/
def loField (w : Word) : Nat := w.toNat % 16

/-- Bits 7:0. -/
def low8Field (w : Word) : Nat := w.toNat % 256

section Fields
variable (w : Word)

theorem groupBits_toNat : (w.extractLsb' 12 4).toNat = groupField w := by
  have := w.isLt
  simp only [groupField, BitVec.extractLsb'_toNat, Nat.shiftRight_eq_div_pow]
  omega

theorem subBits_toNat : (w.extractLsb' 8 4).toNat = subField w := by
  simp [subField, BitVec.extractLsb'_toNat, Nat.shiftRight_eq_div_pow]

theorem hiBits_toNat : (w.extractLsb' 4 4).toNat = hiField w := by
  simp [hiField, BitVec.extractLsb'_toNat, Nat.shiftRight_eq_div_pow]

theorem loBits_toNat : (w.extractLsb' 0 4).toNat = loField w := by
  simp [loField, BitVec.extractLsb'_toNat]

theorem groupBits_eq_iff (c : BitVec 4) : w.extractLsb' 12 4 = c ↔ groupField w = c.toNat := by
  rw [BitVec.toNat_eq, groupBits_toNat]

theorem subBits_eq_iff (c : BitVec 4) : w.extractLsb' 8 4 = c ↔ subField w = c.toNat := by
  rw [BitVec.toNat_eq, subBits_toNat]

theorem loBits_eq_iff (c : BitVec 4) : w.extractLsb' 0 4 = c ↔ loField w = c.toNat := by
  rw [BitVec.toNat_eq, loBits_toNat]

theorem low8Bits_eq_iff (c : Byte) : w.extractLsb' 0 8 = c ↔ low8Field w = c.toNat := by
  rw [BitVec.toNat_eq]
  exact Eq.congr_left (loByte_toNat w)

end Fields

/-! ### What each format rejects -/

/-- The decoder refuses, for whatever reason. -/
def Rejected (x : Except DecodeReject Instr) : Prop := ∃ why, x = .error why

@[simp] theorem rejected_error (why : DecodeReject) : Rejected (.error why) := ⟨why, rfl⟩

@[simp] theorem not_rejected_ok (i : Instr) : ¬ Rejected (.ok i) := fun ⟨_, h⟩ => nomatch h

theorem rejected_ite (p : Prop) [Decidable p] (x y : Except DecodeReject Instr) :
    Rejected (if p then x else y) ↔ (p ∧ Rejected x) ∨ (¬ p ∧ Rejected y) := by
  by_cases hp : p <;> simp [hp]

theorem ofCode_eq_none_iff (c : BitVec 4) : Reg.ofCode c = none ↔ badCode c.toNat := by
  unfold badCode
  revert c
  decide

section Formats
variable (w : Word)

theorem rejected_decodeRR (make : Reg → Reg → Instr) :
    Rejected (decodeRR make (w.extractLsb' 4 4) (w.extractLsb' 0 4)) ↔ badCode (hiField w) ∨ badCode (loField w) := by
  rw [← hiBits_toNat, ← loBits_toNat, ← ofCode_eq_none_iff, ← ofCode_eq_none_iff]
  cases hhi : Reg.ofCode (w.extractLsb' 4 4) with
  | none => simp [decodeRR, hhi]
  | some d => cases hlo : Reg.ofCode (w.extractLsb' 0 4) <;> simp [decodeRR, hhi, hlo]

theorem rejected_decodeR (make : Reg → Instr) :
    Rejected (decodeR make (w.extractLsb' 4 4) (w.extractLsb' 0 4)) ↔ loField w ≠ 0 ∨ badCode (hiField w) := by
  rw [decodeR, rejected_ite, loBits_eq_iff, ← hiBits_toNat, ← ofCode_eq_none_iff]
  cases Reg.ofCode (w.extractLsb' 4 4) <;> simp [eq_or_ne]

theorem rejected_decodeRI (make : Reg → Byte → Instr) (imm8 : Byte) :
    Rejected (decodeRI make (w.extractLsb' 8 4) imm8) ↔ badCode (subField w) := by
  rw [← subBits_toNat, ← ofCode_eq_none_iff]
  cases hd : Reg.ofCode (w.extractLsb' 8 4) <;> simp [decodeRI, hd]

theorem rejected_decodeZ (i : Instr) : Rejected (decodeZ i (w.extractLsb' 0 8)) ↔ low8Field w ≠ 0 := by
  rw [decodeZ, rejected_ite, low8Bits_eq_iff]
  simp

end Formats

/-! ### What each group rejects -/

section Groups
variable {w : Word}

theorem rejected_decode_group0 (hg : groupField w = 0x0) :
    Rejected (decode w) ↔ (subField w = 0 ∧ low8Field w ≠ 0) ∨ 2 ≤ subField w := by
  simp only [decode, groupBits_eq_iff, subBits_eq_iff, hg, BitVec.reduceToNat, ↓reduceIte, rejected_ite,
    rejected_decodeZ, not_rejected_ok, rejected_error, and_false, and_true, false_or]
  omega

theorem rejected_decode_group1 (hg : groupField w = 0x1) :
    Rejected (decode w) ↔ 3 ≤ subField w ∨ badCode (hiField w) ∨ badCode (loField w) := by
  simp only [decode, groupBits_eq_iff, subBits_eq_iff, hg, BitVec.reduceToNat, Nat.reduceEqDiff, ↓reduceIte,
    rejected_ite, rejected_decodeRR, rejected_error, and_true, badCode]
  omega

theorem rejected_decode_group2 (hg : groupField w = 0x2) : Rejected (decode w) ↔ badCode (subField w) := by
  simp [decode, groupBits_eq_iff, hg, rejected_decodeRI]

theorem rejected_decode_group7 (hg : groupField w = 0x7) :
    Rejected (decode w) ↔ (subField w = 0 ∧ low8Field w ≠ 0) ∨
      ((subField w = 1 ∨ subField w = 2) ∧ (loField w ≠ 0 ∨ badCode (hiField w))) ∨ 3 ≤ subField w := by
  simp only [decode, groupBits_eq_iff, subBits_eq_iff, hg, BitVec.reduceToNat, Nat.reduceEqDiff, ↓reduceIte,
    rejected_ite, rejected_decodeZ, rejected_decodeR, rejected_error, and_true, badCode]
  omega

theorem rejected_decode_groupA (hg : groupField w = 0xA) :
    Rejected (decode w) ↔ 2 ≤ subField w ∨ badCode (hiField w) ∨ badCode (loField w) := by
  simp only [decode, groupBits_eq_iff, subBits_eq_iff, hg, Config.encGlobal, BitVec.reduceToNat, Nat.reduceEqDiff,
    ↓reduceIte, rejected_ite, rejected_decodeRR, rejected_error, and_true, badCode]
  omega

theorem rejected_decode_groupB (hg : groupField w = 0xB) :
    Rejected (decode w) ↔ 1 ≤ subField w ∨ loField w ≠ 0 ∨ badCode (hiField w) := by
  simp only [decode, groupBits_eq_iff, subBits_eq_iff, hg, Config.encGlobal, Config.encSys, BitVec.reduceToNat,
    Nat.reduceEqDiff, ↓reduceIte, rejected_ite, rejected_decodeR, rejected_error, and_true, badCode]
  omega

/-- The groups of format A accept every 12-bit address. -/
theorem not_rejected_decode_address (hg : groupField w ∈ [0x3, 0x4, 0x5, 0x6, 0x8, 0x9]) : ¬ Rejected (decode w) := by
  simp only [List.mem_cons, List.not_mem_nil, or_false] at hg
  rcases hg with hg | hg | hg | hg | hg | hg <;> simp [decode, groupBits_eq_iff, hg]

theorem rejected_decode_unknown (hg : 0xC ≤ groupField w) : Rejected (decode w) := by
  have hne : ∀ k < 0xC, groupField w ≠ k := fun k hk => by omega
  simp [decode, Config.encGlobal, Config.encSys, groupBits_eq_iff, hne]

end Groups

/-! ### The list of R80 -/

theorem undecodable_iff_fields (w : Word) : undecodable w ↔
    (groupField w = 0x0 ∧ w.toNat ≠ 0x0000 ∧ ¬ (0x0100 ≤ w.toNat ∧ w.toNat ≤ 0x01FF)) ∨
    (groupField w = 0x1 ∧ (3 ≤ subField w ∨ badCode (hiField w) ∨ badCode (loField w))) ∨
    (groupField w = 0x2 ∧ badCode (subField w)) ∨
    (groupField w = 0x7 ∧ ((subField w = 0 ∧ low8Field w ≠ 0) ∨
      ((subField w = 1 ∨ subField w = 2) ∧ (loField w ≠ 0 ∨ badCode (hiField w))) ∨ 3 ≤ subField w)) ∨
    (groupField w = 0xA ∧ (2 ≤ subField w ∨ badCode (hiField w) ∨ badCode (loField w))) ∨
    (groupField w = 0xB ∧ (1 ≤ subField w ∨ loField w ≠ 0 ∨ badCode (hiField w))) ∨
    0xC ≤ groupField w := Iff.rfl

/-- The list of R80 is the rejected set: in each group the list's rule is the decoder's. -/
theorem undecodable_iff_rejected (w : Word) : undecodable w ↔ Rejected (decode w) := by
  rw [undecodable_iff_fields]
  have hgroups : groupField w = 0x0 ∨ groupField w = 0x1 ∨ groupField w = 0x2 ∨ groupField w = 0x7 ∨
      groupField w = 0xA ∨ groupField w = 0xB ∨ groupField w ∈ [0x3, 0x4, 0x5, 0x6, 0x8, 0x9] ∨
      0xC ≤ groupField w := by
    simp only [List.mem_cons, List.not_mem_nil, or_false]
    omega
  rcases hgroups with hg | hg | hg | hg | hg | hg | hg | hg
  · simp only [rejected_decode_group0 hg]
    unfold groupField at hg ⊢
    unfold subField low8Field
    omega
  · simp [rejected_decode_group1 hg, hg]
  · simp [rejected_decode_group2 hg, hg]
  · simp [rejected_decode_group7 hg, hg]
  · simp [rejected_decode_groupA hg, hg]
  · simp [rejected_decode_groupB hg, hg]
  · simp only [not_rejected_decode_address hg, iff_false]
    simp only [List.mem_cons, List.not_mem_nil, or_false] at hg
    omega
  · simp [rejected_decode_unknown hg, hg]

/-! ### The step that fetches such a word -/

section Fetch
variable {s : State} {w : Word}

/-- A word that is fetched whole passes every check before the decoder (40_cycle R86, R88). -/
theorem checks_of_fetches (h : s.fetches w) :
    s.halted = false ∧ s.fetchInRange = true ∧ s.wholeWord = true ∧ passesEnd s.pc = false ∧ s.fetchWord s.pc = w := by
  obtain ⟨hrun, hlow, hwhole, hfits, hw⟩ := h
  have hend : s.pc.toNat + 1 < Config.memSize := by
    unfold Config.progEndMax at hfits
    unfold Config.memSize
    omega
  refine ⟨hrun, ?_, by simpa [State.wholeWord] using hwhole, by simpa [passesEnd] using hend, hw.symm⟩
  simp [State.fetchInRange, hlow, Nat.lt_of_succ_lt hwhole]

theorem fetchInstr_of_rejected (h : s.fetches w) (hrej : Rejected (decode w)) :
    s.fetchInstr = .error (.decodeError (.word w)) := by
  obtain ⟨-, -, hwhole, hpass, rfl⟩ := checks_of_fetches h
  obtain ⟨why, hwhy⟩ := hrej
  simp [State.fetchInstr, hwhole, hpass, hwhy]

theorem step_of_rejected (h : s.fetches w) (hrej : Rejected (decode w)) :
    step s = .next (s.advancePC.haltWith (.decodeError (.word w))) := by
  obtain ⟨hrun, hrange, -⟩ := checks_of_fetches h
  simp [step, State.sequence, hrun, hrange, fetchInstr_of_rejected h hrej]

end Fetch

/-- Settles O3: the listed words are the rejected ones, group by group, and a step that fetches a rejected word ends in
the halt of the fetch, on the state after the PC advance. -/
theorem undecodableWordsHalt : Obligations.UndecodableWordsHalt :=
  ⟨undecodable_iff_rejected, fun _ w hf hu => step_of_rejected hf ((undecodable_iff_rejected w).1 hu)⟩

end Sys2Proof.Machine
end

section
/-! Proofs about one cycle (40_cycle R84 to R93): the PC advance before everything else, the fetch of a half word or a
whole one, what a halt leaves, and NOP. -/

namespace Sys2Proof.Machine

variable {s t : State} {w : Word} {i : Instr}

/-! ### The PC advance (40_cycle R87) -/

/-- A program that fits leaves room for the advance (decision D25), so PC does not wrap. -/
theorem advancePC_pc_toNat (hpc : s.pc.toNat < s.params.progEnd) (hfits : s.params.progEnd ≤ Config.progEndMax) :
    s.advancePC.pc.toNat = s.pc.toNat + 2 := by
  unfold Config.progEndMax at hfits
  rw [advancePC_pc]
  bv_omega

/-! ### From the fetch to the end of the step -/

theorem fetchInRange_iff : s.fetchInRange = true ↔ Config.codeBase ≤ s.pc.toNat ∧ s.pc.toNat < s.params.progEnd := by
  simp [State.fetchInRange]

theorem step_of_fetchInstr_ok (hrun : s.halted = false) (hrange : s.fetchInRange = true) (hf : s.fetchInstr = .ok i) :
    step s = exec i s.advancePC := by
  simp [step, State.sequence, hrun, hrange, hf]

theorem step_of_fetchInstr_error {r : HaltReason} (hrun : s.halted = false) (hrange : s.fetchInRange = true)
    (hf : s.fetchInstr = .error r) : step s = .next (s.advancePC.haltWith r) := by
  simp [step, State.sequence, hrun, hrange, hf]

theorem fetchInstr_of_decodes (h : s.fetches w) (hdec : decode w = .ok i) : s.fetchInstr = .ok i := by
  obtain ⟨-, -, hwhole, hpass, rfl⟩ := checks_of_fetches h
  simp [State.fetchInstr, hwhole, hpass, hdec]

theorem step_of_decodes (h : s.fetches w) (hdec : decode w = .ok i) : step s = exec i s.advancePC := by
  obtain ⟨hrun, hrange, -⟩ := checks_of_fetches h
  exact step_of_fetchInstr_ok hrun hrange (fetchInstr_of_decodes h hdec)

/-- At the program's last byte there is no whole word (40_cycle R88). -/
theorem fetchInstr_of_half_word (hlast : s.pc.toNat + 1 = s.params.progEnd) :
    s.fetchInstr = .error (.decodeError (.partialByte (s.memByte s.pc))) := by
  have hhalf : s.wholeWord = false := by simp [State.wholeWord, hlast]
  simp [State.fetchInstr, hhalf]

/-! ### What a halt leaves -/

/-- An instruction that halts a running instance changes nothing else: only a raise writes `halted`, and a raise comes
before any change (40_cycle R91). -/
theorem exec_halts (hrun : s.halted = false) (he : exec i s = .next t) (hhalt : t.halted = true) :
    ∃ r, r ≠ HaltReason.none ∧ t = s.haltWith r := by
  rcases exec_cases i s t he with hraise | hdone
  · exact hraise
  · have hsame : t.halted = s.halted := by
      rcases hdone with ⟨-, rfl⟩ | ⟨_, _, -, rfl⟩ | ⟨_, _, -, rfl⟩ | ⟨_, _, -, rfl⟩ | ⟨_, _, -, rfl⟩ | ⟨_, -, rfl⟩ |
        ⟨_, -, rfl | rfl⟩ | ⟨_, -, -, rfl⟩ | ⟨-, -, _, rfl⟩ | ⟨_, -, -, rfl⟩ | ⟨_, _, -, -, rfl⟩ | ⟨_, _, -, rfl⟩ |
        ⟨_, _, -, rfl⟩ | ⟨_, _, _, -, rfl⟩ | ⟨_, _, _, _, _, -, -, -, -, rfl⟩ | ⟨_, _, -, rfl⟩ <;> simp
    rw [hsame, hrun] at hhalt
    cases hhalt

/-- A step that halts past the fetch-range check, by the fetch or by its instruction, leaves the state after the PC
advance. -/
theorem step_halts_in_range (hrun : s.halted = false) (hrange : s.fetchInRange = true) (hs : step s = .next t)
    (hhalt : t.halted = true) : ∃ r, r ≠ HaltReason.none ∧ t = s.advancePC.haltWith r := by
  cases hf : s.fetchInstr with
  | error r =>
    rw [step_of_fetchInstr_error hrun hrange hf] at hs
    refine ⟨r, ?_, (Host.Outcome.next.inj hs).symm⟩
    rcases fetchInstr_error s r hf with rfl | rfl | rfl <;> simp
  | ok i =>
    rw [step_of_fetchInstr_ok hrun hrange hf] at hs
    exact exec_halts hrun hs hhalt

/-- Settles O6: the bound on the program keeps PC from wrapping, the handler gets the state after the advance, and
whatever halts the step leaves the PC of that state. -/
theorem pcAdvancesBeforeEverythingElse : Obligations.PcAdvancesBeforeEverythingElse := by
  intro s hrun hlow hpc hfits
  have hadvance := advancePC_pc_toNat hpc hfits
  refine ⟨hadvance, fun w i hf hdec => ⟨s.advancePC, step_of_decodes hf hdec, rfl, hadvance⟩, fun t hs hhalt => ?_⟩
  obtain ⟨r, -, rfl⟩ := step_halts_in_range hrun (fetchInRange_iff.2 ⟨hlow, hpc⟩) hs hhalt
  rfl

/-- Settles O8: the last byte is a half word, and a whole word meets `State.fetches`, so that the decoder alone decides
between dispatch and DecodeError. -/
theorem halfWordOrWordIsFetched : Obligations.HalfWordOrWordIsFetched := by
  intro s hrun hlow hfits
  refine ⟨fun hlast => ?_, fun hwhole w hw => ?_⟩
  · have hrange := fetchInRange_iff.2 ⟨hlow, by omega⟩
    exact step_of_fetchInstr_error hrun hrange (fetchInstr_of_half_word hlast)
  · have hf : s.fetches w := ⟨hrun, hlow, hwhole, hfits, hw⟩
    exact ⟨fun i hdec => step_of_decodes hf hdec, fun why hrej => step_of_rejected hf ⟨why, hrej⟩⟩

/-! ### NOP (40_cycle R93) -/

theorem exec_nop (s : State) : exec .nop s = .next s := rfl

theorem decode_zero : decode 0x0000#16 = .ok .nop := rfl

/-- The filler bits of NOP are checked: the words around it are on the list of R80. -/
theorem undecodable_of_nop_filler (hpos : 0x0001 ≤ w.toNat) (hle : w.toNat ≤ 0x00FF) : undecodable w := by
  rw [undecodable_iff_fields]
  left
  unfold groupField
  omega

/-- Settles O27: the word and its neighbours by the decoder's list, and the step by the handler that changes nothing. -/
theorem nopDoesNothing : Obligations.NopDoesNothing := by
  refine ⟨decode_zero, fun w hpos hle => ?_, exec_nop, fun s hf => ?_⟩
  · exact (undecodable_iff_rejected w).1 (undecodable_of_nop_filler hpos hle)
  · calc step s = exec .nop s.advancePC := step_of_decodes hf decode_zero
      _ = .next s.advancePC := exec_nop _

end Sys2Proof.Machine
end

section
/-! Proofs about JMP (42_control_flow R105), with two facts that every control transfer uses: the fetch fault at a
target outside the code region (40_cycle R86), and the words of format A (30_encoding R71). -/

namespace Sys2Proof.Machine

variable {s t : State} {w : Word}

/-! ### The step after a transfer -/

theorem nextStepFetchFaults_of_outside (hrun : t.halted = false)
    (hout : t.pc.toNat < Config.codeBase ∨ t.params.progEnd ≤ t.pc.toNat) : NextStepFetchFaults t := by
  have hrange : t.fetchInRange = false := by
    rw [Bool.eq_false_iff, Ne, fetchInRange_iff]
    omega
  simp [NextStepFetchFaults, step, State.sequence, hrun, hrange]

/-- A state that a step leaves as it was stays so for any number of steps. -/
theorem runMoves_steps_of_step_self (h : step s = .next s) (n : Nat) :
    runMoves (List.replicate n .step) s = .next s := by
  induction n with
  | zero => rfl
  | succ n ih => simpa [List.replicate_succ, runMoves, hostMove, h] using ih

/-! ### Words of format A: a group and a 12-bit address (30_encoding R71) -/

theorem groupField_formatA {g : Nat} (hg : g < 16) (addr12 : BitVec 12) :
    groupField (BitVec.ofNat 16 (4096 * g + addr12.toNat)) = g := by
  have := addr12.isLt
  rw [groupField, BitVec.toNat_ofNat]
  omega

theorem addressBits_formatA (g : Nat) (addr12 : BitVec 12) :
    (BitVec.ofNat 16 (4096 * g + addr12.toNat)).extractLsb' 0 12 = addr12 := by
  have := addr12.isLt
  apply BitVec.eq_of_toNat_eq
  simp only [BitVec.extractLsb'_toNat, BitVec.toNat_ofNat, Nat.shiftRight_zero]
  omega

theorem decode_group3 (hg : groupField w = 0x3) : decode w = .ok (.jmp (w.extractLsb' 0 12)) := by
  simp [decode, groupBits_eq_iff, hg]

/-! ### JMP -/

theorem decode_jmp_word (addr12 : BitVec 12) :
    decode (BitVec.ofNat 16 (0x3000 + addr12.toNat)) = .ok (.jmp addr12) := by
  have hdec := decode_group3 (groupField_formatA (g := 0x3) (by decide) addr12)
  rwa [addressBits_formatA] at hdec

theorem exec_jmp (addr12 : BitVec 12) (s : State) : exec (.jmp addr12) s = .next (s.writePC (absAddr addr12)) := rfl

/-- Only PC moves in the step of a JMP, first by the advance and then to the target, so a JMP that targets itself brings
PC back. -/
theorem step_jmp_to_itself {addr12 : BitVec 12} (hpc : s.pc.toNat = addr12.toNat)
    (hf : s.fetches (BitVec.ofNat 16 (0x3000 + addr12.toNat))) : step s = .next s := by
  have htarget : absAddr addr12 = s.pc := BitVec.eq_of_toNat_eq (by rw [absAddr_toNat, hpc])
  calc step s = exec (.jmp addr12) s.advancePC := step_of_decodes hf (decode_jmp_word addr12)
    _ = .next (s.advancePC.writePC s.pc) := by rw [exec_jmp, htarget]
    _ = .next s := rfl

/-- Settles O34: the word by its group, the effect by JMP's one write to PC, and the loop by induction on the number of
steps, each of which answers the same state. -/
theorem jmpSetsPc : Obligations.JmpSetsPc := by
  refine ⟨decode_jmp_word, fun addr12 s => ?_, fun addr12 s n hpc hf => ?_⟩
  · refine ⟨s.writePC (absAddr addr12), exec_jmp addr12 s, rfl, absAddr_toNat addr12, fun hrun hout => ?_⟩
    rw [← absAddr_toNat addr12] at hout
    exact nextStepFetchFaults_of_outside hrun hout
  · exact runMoves_steps_of_step_self (step_jmp_to_itself hpc hf) n

end Sys2Proof.Machine
end

section
/-! Proofs about CALL and RET (42_control_flow R108, R109): one word written to or read from the two bytes at the top of
the stack, which the invariant keeps plain (20_memory R38, R57). -/

namespace Sys2Proof.Machine

variable {s t : State} {w : Word}

/-! ### The two bytes at the top of the stack -/

theorem stackSlot_succ_toNat (sp : Byte) : (stackSlot sp + 1).toNat = 257 - sp.toNat := by
  have hslot := stackSlot_toNat sp
  bv_omega

theorem owner_eq_none_of_apartFrom {regions : List Region} {a : Word} {lo hi : Nat}
    (hapart : ∀ r ∈ regions, r.apartFrom lo hi = true) (hlo : lo ≤ a.toNat) (hhi : a.toNat < hi) :
    owner regions a = none := by
  refine owner_eq_none_iff.2 fun r hr hcov => ?_
  have hr' := (apartFrom_iff r lo hi).1 (hapart r hr)
  rw [regionCovers_iff] at hcov
  omega

/-- Constraint 3 of 20_memory R38 for the stack, in every state that meets the invariant. -/
theorem ownerOf_stack (hinv : s.Inv) {a : Word} (ha : a.toNat < Config.stackSize) : s.ownerOf a = none := by
  have hwf := hinv.params_wf
  simp only [Params.wf, Bool.and_eq_true, and_assoc] at hwf
  obtain ⟨hmap, -, -⟩ := hwf
  obtain ⟨-, -, hstack, -⟩ := (regionMapOk_iff s.params).1 hmap
  exact owner_eq_none_of_apartFrom hstack (Nat.zero_le _) (by simpa [Config.stackBase] using ha)

theorem ownerOf_stackSlot (hinv : s.Inv) {sp : Byte} (hsp : 2 ≤ sp.toNat) :
    s.ownerOf (stackSlot sp) = none ∧ s.ownerOf (stackSlot sp + 1) = none := by
  refine ⟨ownerOf_stack hinv ?_, ownerOf_stack hinv ?_⟩
  · rw [stackSlot_toNat, Config.stackSize]
    omega
  · rw [stackSlot_succ_toNat, Config.stackSize]
    omega

/-! ### A word in two plain bytes -/

theorem write8_word_plain {a : Word} (hhi : s.ownerOf a = none) (hlo : s.ownerOf (a + 1) = none) :
    (s.write8 a (hiByte w)).write8 (a + 1) (loByte w) = s.placeWord a w := by
  rw [write8_plain s a _ hhi, write8_plain (s.setMemByte a _) (a + 1) _ hlo, State.placeWord]

theorem memByte_placeWord_high (hwf : s.mem.wf = true) (a : Word) : (s.placeWord a w).memByte a = hiByte w := by
  have hne : a.toNat ≠ (a + 1).toNat := by bv_omega
  exact (read_write_other _ _ _ _ hne).trans (read_write_same_wf _ _ _ hwf)

theorem memByte_placeWord_low (hwf : s.mem.wf = true) (a : Word) : (s.placeWord a w).memByte (a + 1) = loByte w :=
  read_write_same_wf _ _ _ (write_wf _ _ _ hwf)

theorem sameMemBut_placeWord (a : Word) : SameMemBut [a, a + 1] s (s.placeWord a w) := by
  intro b hb
  simp only [List.mem_cons, List.not_mem_nil, or_false, not_or, BitVec.toNat_eq] at hb
  obtain ⟨hhi, hlo⟩ := hb
  exact (read_write_other _ _ _ _ hlo).trans (read_write_other _ _ _ _ hhi)

/-! ### The registers a call or a return leaves alone -/

theorem sameRegsBut_sp_pc (hgpr : t.gpr = s.gpr) (hi : t.i = s.i) (hf : t.f = s.f) : SameRegsBut [.sp, .pc] s t := by
  intro r hr
  cases r with
  | gpr n => simp [hgpr]
  | i => simp [hi]
  | f => simp [hf]
  | sp | pc => simp at hr

/-! ### CALL -/

theorem decode_group6 (hg : groupField w = 0x6) : decode w = .ok (.call (w.extractLsb' 0 12)) := by
  simp [decode, groupBits_eq_iff, hg]

theorem decode_call_word (addr12 : BitVec 12) :
    decode (BitVec.ofNat 16 (0x6000 + addr12.toNat)) = .ok (.call addr12) := by
  have hdec := decode_group6 (groupField_formatA (g := 0x6) (by decide) addr12)
  rwa [addressBits_formatA] at hdec

/-- The state after a CALL that has room: the return address placed at the new top slot, then SP, then PC. -/
def calledState (addr12 : BitVec 12) (s : State) : State :=
  ((s.placeWord (stackSlot (s.sp + 2)) s.pc).writeSP (s.sp + 2)).writePC (callTarget addr12)

theorem sp_add_two_toNat (hroom : s.sp.toNat + 2 < Config.stackSize) : (s.sp + 2).toNat = s.sp.toNat + 2 := by
  unfold Config.stackSize at hroom
  bv_omega

theorem exec_call_of_room (addr12 : BitVec 12) (hinv : s.Inv) (hroom : s.sp.toNat + 2 < Config.stackSize) :
    exec (.call addr12) s = .next (calledState addr12 s) := by
  have hsp : 2 ≤ (s.sp + 2).toNat := by rw [sp_add_two_toNat hroom]; omega
  obtain ⟨hhi, hlo⟩ := ownerOf_stackSlot hinv hsp
  have hfits : ¬ 254 ≤ s.sp.toNat := by unfold Config.stackSize at hroom; omega
  simp only [exec, execCall, push16_eq, if_neg hfits, readReg_pc, write8_word_plain hhi hlo, settle_ok, calledState]

theorem exec_call_overflow (addr12 : BitVec 12) (hfull : Config.stackSize ≤ s.sp.toNat + 2) :
    exec (.call addr12) s = .next (s.haltWith .stackOverflow) := by
  have hover : 254 ≤ s.sp.toNat := by unfold Config.stackSize at hfull; omega
  simp only [exec, execCall, push16_eq, if_pos hover, settle_error]

/-- Settles O37: with room, CALL answers `calledState`, whose two bytes, SP and PC are read off with the frame of
`placeWord`; without room the push raises before any change. -/
theorem callPushesAndJumps : Obligations.CallPushesAndJumps := by
  refine ⟨decode_call_word, fun addr12 s hinv hroom => ?_, fun addr12 s hfull => exec_call_overflow addr12 hfull⟩
  have hsp := sp_add_two_toNat hroom
  have hhigh : (calledState addr12 s).memByte (stackSlot (s.sp + 2)) = hiByte s.pc :=
    memByte_placeWord_high hinv.mem_wf _
  have hlow : (calledState addr12 s).memByte (stackSlot (s.sp + 2) + 1) = loByte s.pc :=
    memByte_placeWord_low hinv.mem_wf _
  refine ⟨calledState addr12 s, exec_call_of_room addr12 hinv hroom, ?_, ?_, ?_, sameMemBut_placeWord _, hsp,
    callTarget_toNat addr12, sameRegsBut_sp_pc rfl rfl rfl, fun _ _ => rfl, fun _ => rfl, ⟨rfl, rfl⟩, rfl,
    ⟨rfl, rfl, rfl, rfl⟩, fun hrun hout => nextStepFetchFaults_of_outside hrun (.inr hout)⟩
  · rw [stackSlot_toNat, hsp]
  · rw [hhigh, hiByte_toNat]
  · rw [hlow, loByte_toNat]

/-! ### RET -/

theorem decode_ret_word : decode 0x7000#16 = .ok .ret := rfl

/-- The state after a RET that has a word to pop: SP, then PC. -/
def returnedState (s : State) : State := (s.writeSP (s.sp - 2)).writePC (s.fetchWord (stackSlot s.sp))

/-- The popped bytes are plain, so that reading them changes nothing and answers what the array holds. -/
theorem exec_ret_of_word (hinv : s.Inv) (hsp : 2 ≤ s.sp.toNat) : exec .ret s = .next (returnedState s) := by
  obtain ⟨hhi, hlo⟩ := ownerOf_stackSlot hinv hsp
  simp only [exec, execRet, pop16_eq, if_neg (Nat.not_lt.2 hsp), read8_plain s _ hhi, read8_plain s _ hlo, settle_ok,
    returnedState, State.fetchWord]

theorem exec_ret_underflow (hempty : s.sp.toNat < 2) : exec .ret s = .next (s.haltWith .stackUnderflow) := by
  simp only [exec, execRet, pop16_eq, if_pos hempty, settle_error]

theorem returnedState_pc_toNat : (returnedState s).pc.toNat =
    256 * (s.mem.read (256 - s.sp.toNat)).toNat + (s.mem.read (257 - s.sp.toNat)).toNat := by
  rw [returnedState, writePC_pc, State.fetchWord, wordOfBytes_toNat, State.memByte, State.memByte, stackSlot_toNat,
    stackSlot_succ_toNat]

theorem returnedState_sp_toNat (hsp : 2 ≤ s.sp.toNat) : (returnedState s).sp.toNat = s.sp.toNat - 2 := by
  rw [returnedState, writePC_sp, writeSP_sp]
  bv_omega

theorem onlyRegs_returnedState : OnlyRegs s (returnedState s) :=
  ⟨fun _ => rfl, fun _ _ => rfl, fun _ => rfl, ⟨rfl, rfl⟩, rfl, rfl, rfl, rfl, rfl⟩

/-- Settles O38: with two bytes in use, RET answers `returnedState`; with fewer the pop raises before any change. -/
theorem retPopsThePc : Obligations.RetPopsThePc := by
  refine ⟨decode_ret_word, fun s hinv hsp => ?_, fun s hempty => exec_ret_underflow hempty⟩
  exact ⟨returnedState s, exec_ret_of_word hinv hsp, returnedState_pc_toNat, returnedState_sp_toNat hsp,
    sameRegsBut_sp_pc rfl rfl rfl, onlyRegs_returnedState, fun hrun hout => nextStepFetchFaults_of_outside hrun hout⟩

end Sys2Proof.Machine
end

section
/-! Proofs about PUSH (43_stack R110), with two facts that POP and the other words of format R share:
the top slot is plain (20_memory R38), and format R gives back its register (30_encoding R71). -/

namespace Sys2Proof.Machine

variable {s t : State} {w : Word}

/-! ### Words of format R: a group, a sub-selector and a register code (30_encoding R71) -/

theorem ofCode_code (r : Reg) : Reg.ofCode r.code = some r := by
  cases r with
  | gpr n => revert n; decide
  | i | sp | pc | f => rfl

section FormatR
variable {g k : Nat} {c : BitVec 4}

theorem formatR_toNat (hg : g < 16) (hk : k < 16) (c : BitVec 4) :
    (BitVec.ofNat 16 (4096 * g + 256 * k + 16 * c.toNat)).toNat = 4096 * g + 256 * k + 16 * c.toNat := by
  have := c.isLt
  rw [BitVec.toNat_ofNat]
  omega

theorem fields_of_formatR (hk : k < 16) (hw : w.toNat = 4096 * g + 256 * k + 16 * c.toNat) :
    groupField w = g ∧ subField w = k ∧ hiField w = c.toNat ∧ loField w = 0 := by
  have := c.isLt
  unfold groupField subField hiField loField
  omega

end FormatR

/-- A word whose register field holds the code of `r` and whose filler is 0 passes the checks of format R. -/
theorem decodeR_of_code {make : Reg → Instr} {r : Reg} (hhi : hiField w = r.code.toNat) (hlo : loField w = 0) :
    decodeR make (w.extractLsb' 4 4) (w.extractLsb' 0 4) = .ok (make r) := by
  have hcode : w.extractLsb' 4 4 = r.code := BitVec.eq_of_toNat_eq ((hiBits_toNat w).trans hhi)
  have hfiller : w.extractLsb' 0 4 = 0x0#4 := (loBits_eq_iff w 0x0#4).2 hlo
  simp only [decodeR, hcode, hfiller, ofCode_code, ↓reduceIte]

theorem decode_group7_sub1 (hg : groupField w = 0x7) (hsub : subField w = 0x1) :
    decode w = decodeR .push (w.extractLsb' 4 4) (w.extractLsb' 0 4) := by
  simp [decode, groupBits_eq_iff, subBits_eq_iff, hg, hsub]

theorem decode_push_word (r : Reg) : decode (BitVec.ofNat 16 (0x7100 + 16 * r.code.toNat)) = .ok (.push r) := by
  have hword := formatR_toNat (g := 0x7) (k := 0x1) (by decide) (by decide) r.code
  obtain ⟨hgroup, hsub, hhi, hlo⟩ := fields_of_formatR (by decide) hword
  exact (decode_group7_sub1 hgroup hsub).trans (decodeR_of_code hhi hlo)

/-! ### The byte at the top of the stack -/

theorem ownerOf_stackSlot_top (hinv : s.Inv) {sp : Byte} (hsp : 1 ≤ sp.toNat) : s.ownerOf (stackSlot sp) = none := by
  refine ownerOf_stack hinv ?_
  rw [stackSlot_toNat, Config.stackSize]
  omega

theorem memByte_setMemByte_same (hwf : s.mem.wf = true) (a : Word) (v : Byte) : (s.setMemByte a v).memByte a = v :=
  read_write_same_wf _ _ _ hwf

theorem sameMemBut_setMemByte (a : Word) (v : Byte) : SameMemBut [a] s (s.setMemByte a v) := by
  intro b hb
  rw [List.mem_singleton, BitVec.toNat_eq] at hb
  exact read_write_other _ _ _ _ hb

theorem sameRegsBut_sp (hgpr : t.gpr = s.gpr) (hi : t.i = s.i) (hpc : t.pc = s.pc) (hf : t.f = s.f) :
    SameRegsBut [.sp] s t := by
  intro r hr
  by_cases hr' : r = .pc
  · rw [hr', readReg_pc, readReg_pc, hpc]
  · exact sameRegsBut_sp_pc hgpr hi hf r (by simpa [hr'] using hr)

/-! ### PUSH -/

/-- The state after a PUSH that has room: the register's low byte at the new top slot, then SP. -/
def pushedState (r : Reg) (s : State) : State :=
  (s.setMemByte (stackSlot (s.sp + 1)) (trunc8 (s.readReg r))).writeSP (s.sp + 1)

theorem sp_add_one_toNat (hroom : s.sp.toNat + 1 < Config.stackSize) : (s.sp + 1).toNat = s.sp.toNat + 1 := by
  unfold Config.stackSize at hroom
  bv_omega

theorem exec_push_of_room (r : Reg) (hinv : s.Inv) (hroom : s.sp.toNat + 1 < Config.stackSize) :
    exec (.push r) s = .next (pushedState r s) := by
  have hplain : s.ownerOf (stackSlot (s.sp + 1)) = none :=
    ownerOf_stackSlot_top hinv (by rw [sp_add_one_toNat hroom]; omega)
  have hfits : ¬ 255 ≤ s.sp.toNat := by unfold Config.stackSize at hroom; omega
  simp only [exec, execPush, push8_eq, if_neg hfits, write8_plain s _ _ hplain, settle_ok, pushedState]

theorem exec_push_overflow (r : Reg) (hfull : s.sp.toNat = 255) :
    exec (.push r) s = .next (s.haltWith .stackOverflow) := by
  simp only [exec, execPush, push8_eq, if_pos (Nat.le_of_eq hfull.symm), settle_error]

theorem memByte_pushedState (r : Reg) (hwf : s.mem.wf = true) :
    (pushedState r s).memByte (stackSlot (s.sp + 1)) = BitVec.ofNat 8 (s.readReg r).toNat :=
  calc (pushedState r s).memByte (stackSlot (s.sp + 1)) = trunc8 (s.readReg r) := memByte_setMemByte_same hwf _ _
    _ = BitVec.ofNat 8 (s.readReg r).toNat := (BitVec.ofNat_toNat 8 _).symm

/-- Settles O40: with room, PUSH answers `pushedState`, whose byte and frame are those of one store to a plain slot, and
the operand is read on the state before SP grows; at SP = 255 the push raises before any change. -/
theorem pushStoresALowByte : Obligations.PushStoresALowByte := by
  refine ⟨decode_push_word, fun r s hinv hroom => ?_, fun r s hfull => exec_push_overflow r hfull⟩
  have hsp := sp_add_one_toNat hroom
  have hslot : (stackSlot (s.sp + 1)).toNat = 256 - (s.sp.toNat + 1) := by rw [stackSlot_toNat, hsp]
  exact ⟨pushedState r s, exec_push_of_room r hinv hroom, hslot, memByte_pushedState r hinv.mem_wf,
    sameMemBut_setMemByte _ _, hsp, sameRegsBut_sp rfl rfl rfl rfl, fun _ _ => rfl, fun _ => rfl, ⟨rfl, rfl⟩, rfl,
    ⟨rfl, rfl, rfl, rfl⟩⟩

end Sys2Proof.Machine
end

section
/-! Proofs about the words of every format (30_encoding R71): the word that a layout's sum of fields stands for decodes
to its instruction, and every word that decodes is the sum of its fields. `encode` and the opcode map (R79) follow. -/

namespace Sys2Proof.Machine

variable {w : Word} {i : Instr} {g k : Nat}

/-! ### Words from their fields, for the formats RR, RI and the low byte alone -/

theorem groupField_lt (w : Word) : groupField w < 16 := by
  have := w.isLt
  unfold groupField
  omega

theorem subField_lt (w : Word) : subField w < 16 := Nat.mod_lt _ (by decide)

theorem hiField_lt (w : Word) : hiField w < 16 := Nat.mod_lt _ (by decide)

theorem loField_lt (w : Word) : loField w < 16 := Nat.mod_lt _ (by decide)

theorem low8Field_eq (w : Word) : low8Field w = 16 * hiField w + loField w := by
  unfold low8Field hiField loField
  omega

theorem low8Bits_toNat (w : Word) : (w.extractLsb' 0 8).toNat = low8Field w := loByte_toNat w

theorem toNat_eq_fields (w : Word) :
    w.toNat = 4096 * groupField w + 256 * subField w + 16 * hiField w + loField w := by
  unfold groupField subField hiField loField
  omega

theorem toNat_eq_address (w : Word) : w.toNat = 4096 * groupField w + (w.extractLsb' 0 12).toNat := by
  rw [BitVec.extractLsb'_toNat, Nat.shiftRight_zero, groupField]
  omega

theorem toNat_eq_low8 (w : Word) :
    w.toNat = 4096 * groupField w + 256 * subField w + (w.extractLsb' 0 8).toNat := by
  rw [BitVec.extractLsb'_toNat, Nat.shiftRight_zero, groupField, subField]
  omega

theorem fields_of_formatRR (hg : g < 16) (hk : k < 16) (c e : BitVec 4) :
    groupField (BitVec.ofNat 16 (4096 * g + 256 * k + 16 * c.toNat + e.toNat)) = g ∧
    subField (BitVec.ofNat 16 (4096 * g + 256 * k + 16 * c.toNat + e.toNat)) = k ∧
    hiField (BitVec.ofNat 16 (4096 * g + 256 * k + 16 * c.toNat + e.toNat)) = c.toNat ∧
    loField (BitVec.ofNat 16 (4096 * g + 256 * k + 16 * c.toNat + e.toNat)) = e.toNat := by
  have := c.isLt
  have := e.isLt
  simp only [groupField, subField, hiField, loField, BitVec.toNat_ofNat]
  omega

theorem fields_of_low8 (hg : g < 16) (hk : k < 16) (b : Byte) :
    groupField (BitVec.ofNat 16 (4096 * g + 256 * k + b.toNat)) = g ∧
    subField (BitVec.ofNat 16 (4096 * g + 256 * k + b.toNat)) = k ∧
    (BitVec.ofNat 16 (4096 * g + 256 * k + b.toNat)).extractLsb' 0 8 = b := by
  have := b.isLt
  refine ⟨?_, ?_, BitVec.eq_of_toNat_eq ?_⟩ <;>
    simp only [groupField, subField, BitVec.extractLsb'_toNat, Nat.shiftRight_zero, BitVec.toNat_ofNat] <;> omega

/-! ### A format accepts exactly the codes of its registers -/

theorem ofCode_eq_some_iff (c : BitVec 4) (r : Reg) : Reg.ofCode c = some r ↔ r.code = c := by
  constructor
  · revert r
    revert c
    decide
  · rintro rfl
    exact ofCode_code r

theorem decodeRR_of_codes {make : Reg → Reg → Instr} {d r : Reg} (hhi : hiField w = d.code.toNat)
    (hlo : loField w = r.code.toNat) : decodeRR make (w.extractLsb' 4 4) (w.extractLsb' 0 4) = .ok (make d r) := by
  have hd : w.extractLsb' 4 4 = d.code := BitVec.eq_of_toNat_eq ((hiBits_toNat w).trans hhi)
  have hr : w.extractLsb' 0 4 = r.code := (loBits_eq_iff w r.code).2 hlo
  simp only [decodeRR, hd, hr, ofCode_code]

/-! ### The format of each group and sub-selector -/

theorem decode_group0_sub1 (hg : groupField w = 0x0) (hk : subField w = 0x1) :
    decode w = .ok (.halt (w.extractLsb' 0 8)) := by
  simp [decode, groupBits_eq_iff, subBits_eq_iff, hg, hk]

theorem decode_group1_sub0 (hg : groupField w = 0x1) (hk : subField w = 0x0) :
    decode w = decodeRR .mov (w.extractLsb' 4 4) (w.extractLsb' 0 4) := by
  simp [decode, groupBits_eq_iff, subBits_eq_iff, hg, hk]

theorem decode_group1_sub1 (hg : groupField w = 0x1) (hk : subField w = 0x1) :
    decode w = decodeRR .add (w.extractLsb' 4 4) (w.extractLsb' 0 4) := by
  simp [decode, groupBits_eq_iff, subBits_eq_iff, hg, hk]

theorem decode_group1_sub2 (hg : groupField w = 0x1) (hk : subField w = 0x2) :
    decode w = decodeRR .sub (w.extractLsb' 4 4) (w.extractLsb' 0 4) := by
  simp [decode, groupBits_eq_iff, subBits_eq_iff, hg, hk]

theorem decode_group2 (hg : groupField w = 0x2) :
    decode w = decodeRI .ldi (w.extractLsb' 8 4) (w.extractLsb' 0 8) := by
  simp [decode, groupBits_eq_iff, hg]

theorem decode_group4 (hg : groupField w = 0x4) : decode w = .ok (.jz (w.extractLsb' 0 12)) := by
  simp [decode, groupBits_eq_iff, hg]

theorem decode_group5 (hg : groupField w = 0x5) : decode w = .ok (.jnz (w.extractLsb' 0 12)) := by
  simp [decode, groupBits_eq_iff, hg]

theorem decode_group7_sub2 (hg : groupField w = 0x7) (hk : subField w = 0x2) :
    decode w = decodeR .pop (w.extractLsb' 4 4) (w.extractLsb' 0 4) := by
  simp [decode, groupBits_eq_iff, subBits_eq_iff, hg, hk]

theorem decode_group8 (hg : groupField w = 0x8) : decode w = .ok (.ld (w.extractLsb' 0 12)) := by
  simp [decode, groupBits_eq_iff, hg]

theorem decode_group9 (hg : groupField w = 0x9) : decode w = .ok (.st (w.extractLsb' 0 12)) := by
  simp [decode, groupBits_eq_iff, hg]

theorem decode_groupA_sub0 (hg : groupField w = 0xA) (hk : subField w = 0x0) :
    decode w = decodeRR .gld (w.extractLsb' 4 4) (w.extractLsb' 0 4) := by
  simp [decode, Config.encGlobal, groupBits_eq_iff, subBits_eq_iff, hg, hk]

theorem decode_groupA_sub1 (hg : groupField w = 0xA) (hk : subField w = 0x1) :
    decode w = decodeRR .gst (w.extractLsb' 4 4) (w.extractLsb' 0 4) := by
  simp [decode, Config.encGlobal, groupBits_eq_iff, subBits_eq_iff, hg, hk]

theorem decode_groupB_sub0 (hg : groupField w = 0xB) (hk : subField w = 0x0) :
    decode w = decodeR .putc (w.extractLsb' 4 4) (w.extractLsb' 0 4) := by
  simp [decode, Config.encGlobal, Config.encSys, groupBits_eq_iff, subBits_eq_iff, hg, hk]

/-! ### The word of a layout decodes to its instruction -/

/-- Format RR of any group: if the decoder answers format RR on the group and sub-selector, it gives back both
registers. -/
theorem decode_formatRR_word {make : Reg → Reg → Instr}
    (hdec : ∀ w : Word, groupField w = g → subField w = k →
      decode w = decodeRR make (w.extractLsb' 4 4) (w.extractLsb' 0 4)) (d r : Reg)
    (hg : g < 16 := by decide) (hk : k < 16 := by decide) :
    decode (BitVec.ofNat 16 (4096 * g + 256 * k + 16 * d.code.toNat + r.code.toNat)) = .ok (make d r) := by
  obtain ⟨hgroup, hsub, hhi, hlo⟩ := fields_of_formatRR hg hk d.code r.code
  exact (hdec _ hgroup hsub).trans (decodeRR_of_codes hhi hlo)

/-- Format R, the same. -/
theorem decode_formatR_word {make : Reg → Instr}
    (hdec : ∀ w : Word, groupField w = g → subField w = k →
      decode w = decodeR make (w.extractLsb' 4 4) (w.extractLsb' 0 4)) (r : Reg)
    (hg : g < 16 := by decide) (hk : k < 16 := by decide) :
    decode (BitVec.ofNat 16 (4096 * g + 256 * k + 16 * r.code.toNat)) = .ok (make r) := by
  obtain ⟨hgroup, hsub, hhi, hlo⟩ := fields_of_formatR hk (formatR_toNat hg hk r.code)
  exact (hdec _ hgroup hsub).trans (decodeR_of_code hhi hlo)

/-- Format A, the same. -/
theorem decode_formatA_word {make : BitVec 12 → Instr}
    (hdec : ∀ w : Word, groupField w = g → decode w = .ok (make (w.extractLsb' 0 12))) (addr12 : BitVec 12)
    (hg : g < 16 := by decide) :
    decode (BitVec.ofNat 16 (4096 * g + addr12.toNat)) = .ok (make addr12) := by
  rw [hdec _ (groupField_formatA hg addr12), addressBits_formatA]

theorem decode_halt_word (code8 : Byte) : decode (BitVec.ofNat 16 (0x0100 + code8.toNat)) = .ok (.halt code8) := by
  obtain ⟨hgroup, hsub, hlow⟩ := fields_of_low8 (g := 0x0) (k := 0x1) (by decide) (by decide) code8
  rw [Nat.mul_zero, Nat.mul_one, Nat.zero_add] at hgroup hsub hlow
  rw [decode_group0_sub1 hgroup hsub, hlow]

theorem decode_ldi_word (d : Reg) (imm8 : Byte) :
    decode (BitVec.ofNat 16 (0x2000 + 256 * d.code.toNat + imm8.toNat)) = .ok (.ldi d imm8) := by
  obtain ⟨hgroup, hsub, hlow⟩ := fields_of_low8 (g := 0x2) (by decide) d.code.isLt imm8
  have hd := (subBits_eq_iff _ _).2 hsub
  rw [decode_group2 hgroup, hlow, hd, decodeRI, ofCode_code]

/-- A row's pattern, summed up from its fields, decodes to the row's instruction. -/
theorem decode_layoutNumber (i : Instr) : decode (BitVec.ofNat 16 (layoutNumber i)) = .ok i := by
  cases i with
  | nop => exact decode_zero
  | halt code8 => exact decode_halt_word code8
  | mov d r => exact decode_formatRR_word (g := 0x1) (k := 0x0) (fun _ => decode_group1_sub0) d r
  | add d r => exact decode_formatRR_word (g := 0x1) (k := 0x1) (fun _ => decode_group1_sub1) d r
  | sub d r => exact decode_formatRR_word (g := 0x1) (k := 0x2) (fun _ => decode_group1_sub2) d r
  | ldi d imm8 => exact decode_ldi_word d imm8
  | jmp addr12 => exact decode_jmp_word addr12
  | jz addr12 => exact decode_formatA_word (g := 0x4) (fun _ => decode_group4) addr12
  | jnz addr12 => exact decode_formatA_word (g := 0x5) (fun _ => decode_group5) addr12
  | call addr12 => exact decode_call_word addr12
  | ret => exact decode_ret_word
  | push r => exact decode_push_word r
  | pop r => exact decode_formatR_word (g := 0x7) (k := 0x2) (fun _ => decode_group7_sub2) r
  | ld addr12 => exact decode_formatA_word (g := 0x8) (fun _ => decode_group8) addr12
  | st addr12 => exact decode_formatA_word (g := 0x9) (fun _ => decode_group9) addr12
  | gld v a => exact decode_formatRR_word (g := 0xA) (k := 0x0) (fun _ => decode_groupA_sub0) v a
  | gst v a => exact decode_formatRR_word (g := 0xA) (k := 0x1) (fun _ => decode_groupA_sub1) v a
  | putc r => exact decode_formatR_word (g := 0xB) (k := 0x0) (fun _ => decode_groupB_sub0) r

theorem decode_of_layoutNumber (h : layoutNumber i = w.toNat) : decode w = .ok i := by
  have hdec := decode_layoutNumber i
  rwa [h, BitVec.ofNat_toNat, BitVec.setWidth_eq] at hdec

/-! ### A word that decodes is the sum of its fields -/

/-- The codes that are not on the list of undefined ones are the registers' codes. -/
theorem exists_reg_of_not_badCode {n : Nat} (hn : n < 16) (hcode : ¬ badCode n) : ∃ r : Reg, r.code.toNat = n := by
  have hsome : Reg.ofCode (BitVec.ofNat 4 n) ≠ none := by
    rw [Ne, ofCode_eq_none_iff, BitVec.toNat_ofNat, Nat.mod_eq_of_lt hn]
    exact hcode
  obtain ⟨r, hr⟩ := Option.ne_none_iff_exists'.1 hsome
  exact ⟨r, by rw [(ofCode_eq_some_iff _ _).1 hr, BitVec.toNat_ofNat, Nat.mod_eq_of_lt hn]⟩

theorem exists_layoutNumber_formatRR (make : Reg → Reg → Instr) (hhi : ¬ badCode (hiField w))
    (hlo : ¬ badCode (loField w))
    (hmake : ∀ d r, layoutNumber (make d r) =
      4096 * groupField w + 256 * subField w + 16 * d.code.toNat + r.code.toNat) :
    ∃ i, layoutNumber i = w.toNat := by
  obtain ⟨d, hd⟩ := exists_reg_of_not_badCode (hiField_lt w) hhi
  obtain ⟨r, hr⟩ := exists_reg_of_not_badCode (loField_lt w) hlo
  exact ⟨make d r, by rw [hmake, hd, hr, ← toNat_eq_fields]⟩

theorem exists_layoutNumber_formatR (make : Reg → Instr) (hhi : ¬ badCode (hiField w)) (hlo : loField w = 0)
    (hmake : ∀ r, layoutNumber (make r) = 4096 * groupField w + 256 * subField w + 16 * r.code.toNat) :
    ∃ i, layoutNumber i = w.toNat := by
  obtain ⟨r, hr⟩ := exists_reg_of_not_badCode (hiField_lt w) hhi
  exact ⟨make r, by rw [hmake, hr, toNat_eq_fields w, hlo, Nat.add_zero]⟩

theorem exists_layoutNumber_formatA (make : BitVec 12 → Instr)
    (hmake : ∀ addr12, layoutNumber (make addr12) = 4096 * groupField w + addr12.toNat) :
    ∃ i, layoutNumber i = w.toNat :=
  ⟨make (w.extractLsb' 0 12), by rw [hmake, ← toNat_eq_address]⟩

/-- The words that are not rejected are the layouts' sums, group by group and sub-selector by sub-selector. -/
theorem exists_layoutNumber_of_not_rejected (hw : ¬ Rejected (decode w)) : ∃ i, layoutNumber i = w.toNat := by
  have hgroup := groupField_lt w
  have hword := toNat_eq_low8 w
  rw [low8Bits_toNat] at hword
  interval_cases hg : groupField w
  · rw [rejected_decode_group0 hg] at hw
    obtain hsub | hsub : subField w = 0 ∨ subField w = 1 := by omega
    · exact ⟨.nop, by rw [layoutNumber]; omega⟩
    · exact ⟨.halt (w.extractLsb' 0 8), by rw [layoutNumber, low8Bits_toNat, hword, hsub]⟩
  · rw [rejected_decode_group1 hg, not_or, not_or, Nat.not_le] at hw
    obtain ⟨hsub, hhi, hlo⟩ := hw
    interval_cases hk : subField w
    · exact exists_layoutNumber_formatRR .mov hhi hlo fun d r => by rw [hg, hk, layoutNumber]
    · exact exists_layoutNumber_formatRR .add hhi hlo fun d r => by rw [hg, hk, layoutNumber]
    · exact exists_layoutNumber_formatRR .sub hhi hlo fun d r => by rw [hg, hk, layoutNumber]
  · rw [rejected_decode_group2 hg] at hw
    obtain ⟨d, hd⟩ := exists_reg_of_not_badCode (subField_lt w) hw
    exact ⟨.ldi d (w.extractLsb' 0 8), by rw [layoutNumber, low8Bits_toNat, hd, hword]⟩
  · exact exists_layoutNumber_formatA .jmp fun addr12 => by rw [hg, layoutNumber]
  · exact exists_layoutNumber_formatA .jz fun addr12 => by rw [hg, layoutNumber]
  · exact exists_layoutNumber_formatA .jnz fun addr12 => by rw [hg, layoutNumber]
  · exact exists_layoutNumber_formatA .call fun addr12 => by rw [hg, layoutNumber]
  · rw [rejected_decode_group7 hg, not_or, not_or, Nat.not_le] at hw
    obtain ⟨hret, hreg, hsub⟩ := hw
    interval_cases hk : subField w
    · exact ⟨.ret, by rw [layoutNumber]; omega⟩
    · obtain ⟨hlo, hhi⟩ := not_or.1 fun hbad => hreg ⟨.inl rfl, hbad⟩
      exact exists_layoutNumber_formatR .push hhi (not_not.1 hlo) fun r => by rw [hg, hk, layoutNumber]
    · obtain ⟨hlo, hhi⟩ := not_or.1 fun hbad => hreg ⟨.inr rfl, hbad⟩
      exact exists_layoutNumber_formatR .pop hhi (not_not.1 hlo) fun r => by rw [hg, hk, layoutNumber]
  · exact exists_layoutNumber_formatA .ld fun addr12 => by rw [hg, layoutNumber]
  · exact exists_layoutNumber_formatA .st fun addr12 => by rw [hg, layoutNumber]
  · rw [rejected_decode_groupA hg, not_or, not_or, Nat.not_le] at hw
    obtain ⟨hsub, hhi, hlo⟩ := hw
    interval_cases hk : subField w
    · exact exists_layoutNumber_formatRR .gld hhi hlo fun v a => by rw [hg, hk, layoutNumber]
    · exact exists_layoutNumber_formatRR .gst hhi hlo fun v a => by rw [hg, hk, layoutNumber]
  · rw [rejected_decode_groupB hg, not_or, not_or, Nat.not_le, Nat.lt_one_iff, not_not] at hw
    obtain ⟨hsub, hlo, hhi⟩ := hw
    exact exists_layoutNumber_formatR .putc hhi hlo fun r => by rw [hg, hsub]; rfl
  -- groups 0xC to 0xF
  all_goals exact absurd (rejected_decode_unknown (by omega)) hw

/-- A word that decodes is some layout's sum, and so the sum of the instruction it decodes to. -/
theorem layoutNumber_of_decode (h : decode w = .ok i) : layoutNumber i = w.toNat := by
  obtain ⟨j, hj⟩ := exists_layoutNumber_of_not_rejected (h ▸ not_rejected_ok i)
  rw [Except.ok.inj (h.symm.trans (decode_of_layoutNumber hj)), hj]

/-! ### The encoder (30_encoding R78) -/

theorem append_toNat_eq {m n : Nat} (x : BitVec m) (y : BitVec n) : (x ++ y).toNat = 2 ^ n * x.toNat + y.toNat := by
  rw [BitVec.toNat_append, ← Nat.shiftLeft_add_eq_or_of_lt y.isLt, Nat.shiftLeft_eq, Nat.mul_comm]

theorem encodeRR_toNat (g s : BitVec 4) (d r : Reg) :
    (encodeRR g s d r).toNat = 4096 * g.toNat + 256 * s.toNat + 16 * d.code.toNat + r.code.toNat := by
  simp only [encodeRR, append_toNat_eq]
  omega

theorem encodeR_toNat (g s : BitVec 4) (r : Reg) :
    (encodeR g s r).toNat = 4096 * g.toNat + 256 * s.toNat + 16 * r.code.toNat := by
  simp only [encodeR, append_toNat_eq, BitVec.reduceToNat]
  omega

theorem encodeA_toNat (g : BitVec 4) (addr12 : BitVec 12) :
    (encodeA g addr12).toNat = 4096 * g.toNat + addr12.toNat :=
  append_toNat_eq g addr12

/-- Each field stands at its position, and what no field covers is 0. -/
theorem encode_toNat (i : Instr) : (encode i).toNat = layoutNumber i := by
  cases i with
  | nop | ret => rfl
  | halt code8 => exact append_toNat_eq 0x01#8 code8
  | mov d r | add d r | sub d r | gld d r | gst d r => exact encodeRR_toNat _ _ d r
  | ldi d imm8 =>
    simp only [encode, append_toNat_eq, layoutNumber, BitVec.reduceToNat]
    omega
  | jmp addr12 | jz addr12 | jnz addr12 | call addr12 | ld addr12 | st addr12 => exact encodeA_toNat _ addr12
  | push r | pop r | putc r => exact encodeR_toNat _ _ r

theorem decode_encode (i : Instr) : decode (encode i) = .ok i := decode_of_layoutNumber (encode_toNat i).symm

theorem encode_of_decode (h : decode w = .ok i) : encode i = w :=
  BitVec.eq_of_toNat_eq ((encode_toNat i).trans (layoutNumber_of_decode h))

/-- Settles O1: encoder and decoder both agree with the sums of the layouts, on every instruction and on every word that
decodes, and `decode` is a left inverse of `encode`. -/
theorem decodeInvertsEncode : Obligations.DecodeInvertsEncode := by
  refine ⟨decode_encode, fun _ _ => encode_of_decode, fun i j hij => ?_, encode_toNat⟩
  have hdec := decode_encode i
  rw [hij, decode_encode] at hdec
  exact (Except.ok.inj hdec).symm

/-- Settles O4: each word is the sum of its instruction's layout. -/
theorem specWordsDecodeAsWritten : Obligations.SpecWordsDecodeAsWritten :=
  ⟨decode_layoutNumber .nop, decode_layoutNumber (.halt 0xFF#8), decode_layoutNumber (.mov .sp .pc),
    decode_layoutNumber (.add .pc .i), decode_layoutNumber (.sub (.gpr 0) (.gpr 1)),
    decode_layoutNumber (.ldi .i 0xFF#8), decode_layoutNumber (.jmp 0x120#12), decode_layoutNumber (.jz 0x120#12),
    decode_layoutNumber (.jnz 0x104#12), decode_layoutNumber (.call 0xFFF#12), decode_layoutNumber .ret,
    decode_layoutNumber (.push (.gpr 3)), decode_layoutNumber (.pop .f), decode_layoutNumber (.ld 0xFFF#12),
    decode_layoutNumber (.st 0x000#12), decode_layoutNumber (.gld .i (.gpr 2)), decode_layoutNumber (.putc (.gpr 3))⟩

/-! ### The opcode map (30_encoding R79) -/

theorem encodedInRow (i : Instr) : Laws.EncodedInRow.Statement i := by
  cases i with
  | nop => exact Laws.EncodedInRow.nop
  | halt code8 => exact Laws.EncodedInRow.halt code8
  | mov d r => exact Laws.EncodedInRow.mov d r
  | add d r => exact Laws.EncodedInRow.add d r
  | sub d r => exact Laws.EncodedInRow.sub d r
  | ldi d imm8 => exact Laws.EncodedInRow.ldi d imm8
  | jmp addr12 => exact Laws.EncodedInRow.jmp addr12
  | jz addr12 => exact Laws.EncodedInRow.jz addr12
  | jnz addr12 => exact Laws.EncodedInRow.jnz addr12
  | call addr12 => exact Laws.EncodedInRow.call addr12
  | ret => exact Laws.EncodedInRow.ret
  | push r => exact Laws.EncodedInRow.push r
  | pop r => exact Laws.EncodedInRow.pop r
  | ld addr12 => exact Laws.EncodedInRow.ld addr12
  | st addr12 => exact Laws.EncodedInRow.st addr12
  | gld v a => exact Laws.EncodedInRow.gld v a
  | gst v a => exact Laws.EncodedInRow.gst v a
  | putc r => exact Laws.EncodedInRow.putc r

theorem selects_iff (row : OpcodeRow) (w : Word) :
    row.selects w = true ↔ w &&& row.mask = row.bits ∧ ∀ k ∈ row.regFields, ¬ badCode (w.extractLsb' k 4).toNat := by
  have hvalid : ∀ c : BitVec 4, validRegCode c = true ↔ ¬ badCode c.toNat := by unfold badCode; decide
  simp [OpcodeRow.selects, hvalid]

/-- A field that a row's mask covers holds what the row's match holds there. -/
theorem field_eq_of_masked {mask bits : Word} (hw : w &&& mask = bits) (lsb len : Nat)
    (hmask : mask.extractLsb' lsb len = BitVec.allOnes len) : w.extractLsb' lsb len = bits.extractLsb' lsb len := by
  rw [← hw, BitVec.extractLsb'_and, hmask, BitVec.and_allOnes]

/-- A word that two rows select would have to agree with both matches under both masks. -/
theorem rows_select_apart :
    opcodeTable.Pairwise fun row row' => ∀ w, ¬ (row.selects w = true ∧ row'.selects w = true) := by
  have hmasks : opcodeTable.Pairwise fun row row' => row.bits &&& row'.mask ≠ row'.bits &&& row.mask := by decide
  refine hmasks.imp fun {row row'} hne w hsel => hne ?_
  obtain ⟨hw, -⟩ := (selects_iff row w).1 hsel.1
  obtain ⟨hw', -⟩ := (selects_iff row' w).1 hsel.2
  rw [← hw, ← hw', BitVec.and_assoc, BitVec.and_assoc, BitVec.and_comm row.mask]

/-- What the masks of the map's rows cover: the group always, and each narrower field where the row fixes it. -/
theorem fields_of_selects {row : OpcodeRow} (h : row.selects w = true) :
    (groupField row.mask = 15 → groupField w = groupField row.bits) ∧
    (subField row.mask = 15 → subField w = subField row.bits) ∧
    (hiField row.mask = 15 → hiField w = hiField row.bits) ∧
    (loField row.mask = 15 → loField w = loField row.bits) ∧
    (8 ∈ row.regFields → ¬ badCode (subField w)) ∧
    (4 ∈ row.regFields → ¬ badCode (hiField w)) ∧
    (0 ∈ row.regFields → ¬ badCode (loField w)) := by
  obtain ⟨hw, hregs⟩ := (selects_iff row w).1 h
  have hfield : ∀ lsb, (row.mask.extractLsb' lsb 4).toNat = 15 →
      (w.extractLsb' lsb 4).toNat = (row.bits.extractLsb' lsb 4).toNat := fun lsb hmask => by
    rw [field_eq_of_masked hw lsb 4 (BitVec.eq_of_toNat_eq hmask)]
  simp only [← groupBits_toNat, ← subBits_toNat, ← hiBits_toNat, ← loBits_toNat]
  exact ⟨hfield 12, hfield 8, hfield 4, hfield 0, hregs 8, hregs 4, hregs 0⟩

/-- A word that a row selects is not on the list of R80: row by row, the fields the row fixes and the register codes it
checks leave no defect. -/
theorem not_rejected_of_selects {row : OpcodeRow} (hrow : row ∈ opcodeTable) (h : row.selects w = true) :
    ¬ Rejected (decode w) := by
  have hfields := fields_of_selects h
  have hlow := low8Field_eq w
  have hword := toNat_eq_fields w
  have hhi := hiField_lt w
  have hlo := loField_lt w
  rw [← undecodable_iff_rejected, undecodable_iff_fields]
  generalize groupField w = g, subField w = k, hiField w = hi, loField w = lo at hfields hlow hword hhi hlo ⊢
  simp only [opcodeTable, List.mem_cons, List.not_mem_nil, or_false] at hrow
  rcases hrow with rfl | rfl | rfl | rfl | rfl | rfl | rfl | rfl | rfl | rfl | rfl | rfl | rfl | rfl | rfl | rfl | rfl |
    rfl
  all_goals
    simp [groupField, subField, hiField, loField, badCode] at hfields
    unfold badCode
    omega

/-- Settles O2: a row that selects a word leaves it no defect; a word that decodes is the encoding of its instruction,
which stands in the instruction's row; and two rows' matches differ where both masks look. -/
theorem wordsDecodeByTheOpcodeMap : Obligations.WordsDecodeByTheOpcodeMap := by
  have hrow : ∀ w i, decode w = .ok i → ∃ row ∈ opcodeTable, row.mnemonic = i.mnemonic ∧ row.selects w = true := by
    intro w i hdec
    rw [← encode_of_decode hdec]
    exact encodedInRow i
  refine ⟨fun w => ⟨fun hwf => ?_, fun ⟨i, hdec⟩ => ?_⟩, hrow, rows_select_apart⟩
  · obtain ⟨row, hmem, hsel⟩ := List.any_eq_true.1 hwf
    obtain ⟨i, hi⟩ := exists_layoutNumber_of_not_rejected (not_rejected_of_selects hmem hsel)
    exact ⟨i, decode_of_layoutNumber hi⟩
  · obtain ⟨row, hmem, -, hsel⟩ := hrow w i hdec
    exact List.any_eq_true.2 ⟨row, hmem, hsel⟩

end Sys2Proof.Machine
end

section
/-! The one induction behind every invariant: a property that each update of the state keeps is kept by every
instruction, every step, every move of the host and every run. -/

namespace Sys2Proof.Machine

/-- The property is kept by each update of the state that an instruction or the host can make. What is written is no
more than the rules allow: a halt records a reason, the W port carries a byte, and a mailbox byte belongs to a mailbox
that the role picks and that exists. -/
structure KeptByUpdates (P : State → Prop) : Prop where
  haltWith : ∀ (s : State) (r : HaltReason), r ≠ .none → P s → P (s.haltWith r)
  writeReg : ∀ (s : State) (r : Reg) (v : Byte), P s → P (s.writeReg r (zext16 v))
  writeFlags : ∀ (s : State) (z c n v : Bool), P s → P (s.writeFlags z c n v)
  writePC : ∀ (s : State) (a : Word), P s → P (s.writePC a)
  writeSP : ∀ (s : State) (v : Byte), P s → P (s.writeSP v)
  setMemByte : ∀ (s : State) (a : Word) (v : Byte), P s → P (s.setMemByte a v)
  setLatch : ∀ (s : State) (a : Word) (v : Byte), P s → P (s.setLatch a v)
  consoleAppend : ∀ (s : State) (v : Byte), P s → P (s.consoleAppend v)
  draw : ∀ s : State, P s → P { s with rngDraws := s.rngDraws + 1 }
  mbWrite : ∀ (s : State) (opv o : Word) (v : Byte), (targetMailbox s.role opv).toNat < s.params.numAgents →
    o.toNat < s.params.mailboxSize → P s → P (s.mbWrite (targetMailbox s.role opv) o v)

namespace KeptByUpdates

variable {P : State → Prop} {s t : State} {i : Instr}

theorem keeps_read8 (hP : KeptByUpdates P) (a : Word) (h : P s) : P (s.read8 a).2 := by
  rcases read8_cases s a with heq | ⟨-, heq⟩ <;> rw [heq]
  · exact h
  · exact hP.draw s h

theorem keeps_write8 (hP : KeptByUpdates P) (a : Word) (v : Byte) (h : P s) : P (s.write8 a v) := by
  rcases write8_cases s a v with heq | heq | heq | heq <;> rw [heq]
  · exact hP.setMemByte s a v h
  · exact hP.consoleAppend _ v (hP.setMemByte s a v h)
  · exact h
  · exact hP.setLatch s a v h

theorem keeps_writeAlu (hP : KeptByUpdates P) (rd : Reg) (x : AluResult) (h : P s) : P (s.writeAlu rd x) := by
  unfold State.writeAlu
  split
  · exact hP.writeFlags _ _ _ _ _ (hP.writeReg s rd x.r h)
  · exact hP.writeReg s rd x.r h

theorem keeps_exec (hP : KeptByUpdates P) (he : exec i s = .next t) (h : P s) : P t := by
  rcases exec_cases i s t he with ⟨r, hr, rfl⟩ | ⟨-, rfl⟩ | ⟨d, _, -, rfl⟩ | ⟨d, _, -, rfl⟩ | ⟨d, _, -, rfl⟩ |
    ⟨d, v, -, rfl⟩ | ⟨a, -, rfl⟩ | ⟨a, -, rfl | rfl⟩ | ⟨a, -, -, rfl⟩ | ⟨-, -, w, rfl⟩ | ⟨r, -, -, rfl⟩ |
    ⟨r, v, -, -, rfl⟩ | ⟨a, v, -, rfl⟩ | ⟨a, v, -, rfl⟩ | ⟨r, a, v, -, rfl⟩ |
    ⟨_, a, v, _, o, -, rfl, hm, ho, rfl⟩ | ⟨r, v, -, rfl⟩
  · exact hP.haltWith s r hr h
  · exact h
  · exact hP.keeps_writeAlu d _ h
  · exact hP.keeps_writeAlu d _ h
  · exact hP.keeps_writeAlu d _ h
  · exact hP.writeReg s d v h
  · exact hP.writePC s _ h
  · exact h
  · exact hP.writePC s _ h
  · exact hP.writePC _ _ (hP.writeSP _ _ (hP.keeps_write8 _ _ (hP.keeps_write8 _ _ h)))
  · exact hP.writePC _ _ (hP.writeSP _ _ (hP.keeps_read8 _ (hP.keeps_read8 _ h)))
  · exact hP.writeSP _ _ (hP.keeps_write8 _ _ h)
  · exact hP.writeReg _ r v (hP.writeSP _ _ (hP.keeps_read8 _ h))
  · exact hP.writeReg _ _ v (hP.keeps_read8 _ h)
  · exact hP.keeps_write8 _ _ h
  · exact hP.writeReg s r v h
  · exact hP.mbWrite s _ o v hm ho h
  · exact hP.consoleAppend s v h

theorem keeps_step (hP : KeptByUpdates P) (hs : step s = .next t) (h : P s) : P t := by
  have hadvance : P s.advancePC := hP.writePC s (s.pc + 2) h
  rcases step_cases s t hs with ⟨-, rfl⟩ | ⟨-, -, rfl⟩ | ⟨-, -, ⟨r, hr, rfl⟩ | ⟨i, -, he⟩⟩
  · exact h
  · exact hP.haltWith s _ nofun h
  · refine hP.haltWith _ r ?_ hadvance
    rcases fetchInstr_error s r hr with rfl | rfl | rfl <;> nofun
  · exact hP.keeps_exec he hadvance

theorem keeps_hostMove (hP : KeptByUpdates P) {m : HostMove} (hm : hostMove m s = .next t) (h : P s) : P t := by
  cases m with
  | step => exact hP.keeps_step hm h
  | key a v =>
    rw [hostMove, Host.Outcome.next.injEq] at hm
    rw [← hm, State.hostKey]
    split
    · exact hP.setLatch s a v h
    · exact h

theorem keeps_runMoves (hP : KeptByUpdates P) {ms : List HostMove} (hr : runMoves ms s = .next t) (h : P s) : P t := by
  induction ms generalizing s with
  | nil => rwa [← Host.Outcome.next.inj hr]
  | cons m ms ih =>
    rw [runMoves] at hr
    split at hr
    next u hu => exact ih hr (hP.keeps_hostMove hu h)
    next => cases hr
    next => cases hr

end KeptByUpdates

/-! ### What no update reaches: the launch arguments and the role -/

/-- The instance was launched with the arguments of `s`. -/
def SameLaunch (s t : State) : Prop := t.params = s.params ∧ t.rngSeed = s.rngSeed ∧ t.role = s.role

theorem keptByUpdates_sameLaunch (s : State) : KeptByUpdates (SameLaunch s) where
  haltWith _ _ _ h := h
  writeReg t r v h := by simpa [SameLaunch] using h
  writeFlags _ _ _ _ _ h := h
  writePC _ _ h := h
  writeSP _ _ h := h
  setMemByte _ _ _ h := h
  setLatch _ _ _ h := h
  consoleAppend _ _ h := h
  draw _ h := h
  mbWrite _ _ _ _ _ _ h := h

theorem sameLaunch_refl (s : State) : SameLaunch s s := ⟨rfl, rfl, rfl⟩

/-- Settles O24: no update writes the parameters or the seed. -/
theorem parametersNeverChange : Obligations.ParametersNeverChange := by
  intro ms s t hr
  obtain ⟨hparams, hseed, -⟩ := (keptByUpdates_sameLaunch s).keeps_runMoves hr (sameLaunch_refl s)
  exact ⟨hparams, hseed⟩

/-! ### The console and the index register -/

/-- The console of `t` starts with the bytes of `console`. -/
def ConsoleFrom (console : List Byte) (t : State) : Prop := ∃ bytes, t.console = console ++ bytes

theorem keptByUpdates_consoleFrom (console : List Byte) : KeptByUpdates (ConsoleFrom console) where
  haltWith _ _ _ h := h
  writeReg t r v h := by simpa [ConsoleFrom] using h
  writeFlags _ _ _ _ _ h := h
  writePC _ _ h := h
  writeSP _ _ h := h
  setMemByte _ _ _ h := h
  setLatch _ _ _ h := h
  consoleAppend t v h := by
    obtain ⟨bytes, hbytes⟩ := h
    exact ⟨bytes ++ [v], by rw [consoleAppend_console, hbytes, List.append_assoc]⟩
  draw _ h := h
  mbWrite _ _ _ _ _ _ h := h

/-- Settles O25: the one update that writes the console appends a byte to it. -/
theorem consoleOnlyGrows : Obligations.ConsoleOnlyGrows := fun _ s _ hr =>
  (keptByUpdates_consoleFrom s.console).keeps_runMoves hr ⟨[], (List.append_nil _).symm⟩

theorem keptByUpdates_indexByte : KeptByUpdates (fun t => t.i.toNat ≤ 255) where
  haltWith _ _ _ h := h
  writeReg t r v h := by
    by_cases hr : r = .i
    · rw [hr, writeReg_i_i, zext16_toNat]
      omega
    · rwa [writeReg_i t r _ hr]
  writeFlags _ _ _ _ _ h := h
  writePC _ _ h := h
  writeSP _ _ h := h
  setMemByte _ _ _ h := h
  setLatch _ _ _ h := h
  consoleAppend _ _ h := h
  draw _ h := h
  mbWrite _ _ _ _ _ _ h := h

/-- Settles O26: only the W port writes I, and what it carries is a byte. -/
theorem indexRegisterStaysAByte : Obligations.IndexRegisterStaysAByte := fun _ _ hi hs =>
  keptByUpdates_indexByte.keeps_step hs hi

/-! ### The invariant of an instance -/

/-- An update of registers, console or draws keeps the invariant, if F keeps its reserved bits 0: the invariant speaks
of nothing else that such an update changes. -/
theorem State.Inv.of_sameStores {s t : State} (h : s.Inv) (hmem : t.mem = s.mem) (hmb : t.mailboxes = s.mailboxes)
    (hlatch : t.keyLatch = s.keyLatch) (hflags : flagBits t.f = t.f) (hlaunch : SameLaunch s t)
    (hhalted : t.halted = s.halted) (hreason : t.haltReason = s.haltReason) : t.Inv := by
  obtain ⟨hparams, hseed, hrole⟩ := hlaunch
  exact ⟨hmem ▸ h.mem_wf, hmem ▸ h.mem_below, hmb ▸ h.mailboxes_wf, by rw [hmb, hparams]; exact h.mailboxes_range,
    hlatch ▸ h.latch_wf, hlatch ▸ h.latch_below, hflags, hparams ▸ h.params_wf,
    by rw [hrole, hparams]; exact h.role_fits, hseed ▸ h.seed_pos, by rw [hhalted, hreason]; exact h.reason_iff⟩

theorem flagBits_writeReg_f (s : State) (r : Reg) (v : Word) (h : flagBits s.f = s.f) :
    flagBits (s.writeReg r v).f = (s.writeReg r v).f := by
  by_cases hr : r = .f
  · rw [hr, writeReg_f_f, flagBits_flagBits]
  · rwa [writeReg_f s r v hr]

/-- The key of a mailbox byte that exists is in range. -/
theorem mailboxKeyInRange_mailboxKey {p : Params} {m : Byte} {o : Word} (hm : m.toNat < p.numAgents)
    (ho : o.toNat < p.mailboxSize) : mailboxKeyInRange p (mailboxKey m o) = true := by
  have hdiv : mailboxKey m o / 65536 = m.toNat := by unfold mailboxKey; omega
  have hmod : mailboxKey m o % 65536 = o.toNat := by unfold mailboxKey; omega
  simp [mailboxKeyInRange, hdiv, hmod, hm, ho]

/-- A store of this instance's geometry may stand in for the one it has. -/
theorem State.Inv.withMailboxes {s : State} (h : s.Inv) {store : Memory} (hwf : store.wf = true)
    (hrange : store.all (fun c => mailboxKeyInRange s.params c.1) = true) :
    ({ s with mailboxes := store } : State).Inv :=
  { h with mailboxes_wf := hwf, mailboxes_range := hrange }

theorem keptByUpdates_inv : KeptByUpdates State.Inv where
  haltWith s r hr h := { h with reason_iff := ⟨fun _ => hr, fun _ => rfl⟩ }
  writeReg s r v h := h.of_sameStores (by simp) (by simp) (by simp) (flagBits_writeReg_f s r _ h.flags_reserved)
    (by simp [SameLaunch]) (by simp) (by simp)
  writeFlags s z c n v h := { h with flags_reserved := flagBits_packFlags z c n v }
  writePC s a h := { h with }
  writeSP s v h := { h with }
  setMemByte s a v h :=
    { h with mem_wf := write_wf _ _ _ h.mem_wf, mem_below := write_below _ _ _ _ h.mem_below a.isLt }
  setLatch s a v h :=
    { h with latch_wf := write_wf _ _ _ h.latch_wf, latch_below := write_below _ _ _ _ h.latch_below a.isLt }
  consoleAppend s v h := { h with }
  draw s h := { h with }
  mbWrite s opv o v hm ho h := by
    refine h.withMailboxes (write_wf _ _ _ h.mailboxes_wf) ?_
    have hrange := h.mailboxes_range
    rw [List.all_eq_true] at hrange ⊢
    exact write_all _ _ _ _ hrange fun _ => mailboxKeyInRange_mailboxKey hm ho

/-- Settles O18: each update keeps the invariant. -/
theorem everyStepKeepsTheInvariant : Obligations.EveryStepKeepsTheInvariant := fun _ _ hinv hs =>
  keptByUpdates_inv.keeps_step hs hinv

end Sys2Proof.Machine
end

section
/-! Proofs about the end of a step (40_cycle R84 to R91, 60_exceptions R123 to R125): it always answers a state, a
halted instance stays as it is, and a halt is precise and has a named cause. -/

namespace Sys2Proof.Machine

variable {s t : State} {i : Instr}

/-! ### Every step answers a state -/

theorem settle_answers (s : State) (x : Except HaltReason State) : ∃ t, s.settle x = .next t := by
  cases x with
  | ok t => exact ⟨t, rfl⟩
  | error r => exact ⟨s.haltWith r, rfl⟩

/-- An instruction that may raise ends in `settle`, and any other answers its state outright. -/
theorem exec_answers (i : Instr) (s : State) : ∃ t, exec i s = .next t := by
  cases i with
  | call | ret | push | pop | gld | gst => exact settle_answers s _
  | nop | halt | mov | add | sub | ldi | jmp | jz | jnz | ld | st | putc => exact ⟨_, rfl⟩

theorem step_answers (s : State) : ∃ t, step s = .next t := by
  unfold step
  split
  · exact ⟨_, rfl⟩
  · exact exec_answers _ _

theorem hostMove_answers (m : HostMove) (s : State) : ∃ t, hostMove m s = .next t := by
  cases m with
  | step => exact step_answers s
  | key a v => exact ⟨_, rfl⟩

/-- Settles O11: neither an instruction nor the sequencer has another outcome. -/
theorem everyStepAnswersAState : Obligations.EveryStepAnswersAState := ⟨exec_answers, step_answers⟩

/-! ### A halted instance, and a fetch at dispatch -/

theorem step_of_halted (h : s.halted = true) : step s = .next s := by
  simp [step, State.sequence, h]

/-- Settles O9: a step of a halted instance answers the same state, and a transition is a step of a running one. -/
theorem haltedIsFinal : Obligations.HaltedIsFinal := by
  intro s n h
  refine ⟨runMoves_steps_of_step_self (step_of_halted h) n, fun t htrans => ?_⟩
  obtain ⟨hrun, -⟩ := htrans
  rw [h] at hrun
  cases hrun

/-- Settles O5: a whole word that decodes is dispatched after the PC advance. -/
theorem stepRunsTheDecodedInstruction : Obligations.StepRunsTheDecodedInstruction := fun _ _ _ => step_of_decodes

/-- Settles O7: the fetch-range check comes before the PC advance. -/
theorem fetchOutsideTheProgramFaults : Obligations.FetchOutsideTheProgramFaults := fun _ =>
  nextStepFetchFaults_of_outside

/-- Settles O10: outside the fetch range the halt is that of the fetch at PC, and inside it whatever halts leaves the
state after the PC advance. -/
theorem faultsArePrecise : Obligations.FaultsArePrecise := by
  intro s t hrun hs hhalt
  by_cases hrange : Config.codeBase ≤ s.pc.toNat ∧ s.pc.toNat < s.params.progEnd
  · obtain ⟨r, hr, rfl⟩ := step_halts_in_range hrun (fetchInRange_iff.2 hrange) hs hhalt
    exact ⟨r, hr, .inr ⟨hrange.1, hrange.2, rfl⟩⟩
  · have hout : s.pc.toNat < Config.codeBase ∨ s.params.progEnd ≤ s.pc.toNat := by omega
    have hfault : step s = .next (s.haltWith (.addressFault (.fetch s.pc))) := nextStepFetchFaults_of_outside hrun hout
    rw [hfault] at hs
    exact ⟨.addressFault (.fetch s.pc), nofun, .inl ⟨hout, rfl, (Host.Outcome.next.inj hs).symm⟩⟩

/-! ### The cause of a halt -/

theorem push8_outcome (s : State) (v : Byte) :
    s.push8 v = .error .stackOverflow ∨ ∃ u, s.push8 v = .ok u ∧ u.halted = s.halted := by
  rw [push8_eq]
  split
  · exact .inl rfl
  · exact .inr ⟨_, rfl, by simp⟩

theorem push16_outcome (s : State) (v : Word) :
    s.push16 v = .error .stackOverflow ∨ ∃ u, s.push16 v = .ok u ∧ u.halted = s.halted := by
  rw [push16_eq]
  split
  · exact .inl rfl
  · exact .inr ⟨_, rfl, by simp⟩

theorem pop8_outcome (s : State) :
    s.pop8 = .error .stackUnderflow ∨ ∃ b u, s.pop8 = .ok (b, u) ∧ u.halted = s.halted := by
  rw [pop8_eq]
  split
  · exact .inl rfl
  · exact .inr ⟨_, _, rfl, by simp⟩

theorem pop16_outcome (s : State) :
    s.pop16 = .error .stackUnderflow ∨ ∃ w u, s.pop16 = .ok (w, u) ∧ u.halted = s.halted := by
  rw [pop16_eq]
  split
  · exact .inl rfl
  · exact .inr ⟨_, _, rfl, by simp⟩

/-- A GLD or GST faults on the mailbox id or on the offset. -/
def MailboxFault (r : HaltReason) : Prop :=
  (∃ m, r = .addressFault (.mailbox m)) ∨ ∃ o, r = .addressFault (.mailboxOffset o)

theorem mailboxTarget_outcome (s : State) (ra : Reg) :
    (∃ r, s.mailboxTarget ra = .error r ∧ MailboxFault r) ∨ ∃ target, s.mailboxTarget ra = .ok target := by
  rw [mailboxTarget_eq]
  split
  · exact .inl ⟨_, rfl, .inl ⟨_, rfl⟩⟩
  · split
    · exact .inl ⟨_, rfl, .inr ⟨_, rfl⟩⟩
    · exact .inr ⟨_, rfl⟩

/-- Settles O12: what an instruction completes with is running as before, so a halt is HALT's own or is raised by the
operation the instruction rests on: a push, a pop or the mailbox translator. -/
theorem onlyNamedCausesHalt : Obligations.OnlyNamedCausesHalt := by
  intro i s t hrun he hhalt
  cases i with
  | halt code8 =>
    cases he
    exact .inl ⟨code8, rfl, rfl⟩
  | call addr12 =>
    rcases push16_outcome s s.pc with h | ⟨u, h, hu⟩ <;> simp only [exec, execCall, readReg_pc, h] at he <;> cases he
    · exact .inr (.inl ⟨rfl, .inl ⟨addr12, rfl⟩⟩)
    · simp [hu, hrun] at hhalt
  | push r =>
    rcases push8_outcome s (trunc8 (s.readReg r)) with h | ⟨u, h, hu⟩ <;> simp only [exec, execPush, h] at he <;>
      cases he
    · exact .inr (.inl ⟨rfl, .inr ⟨r, rfl⟩⟩)
    · simp [hu, hrun] at hhalt
  | ret =>
    rcases pop16_outcome s with h | ⟨w, u, h, hu⟩ <;> simp only [exec, execRet, h] at he <;> cases he
    · exact .inr (.inr (.inl ⟨rfl, .inl rfl⟩))
    · simp [hu, hrun] at hhalt
  | pop r =>
    rcases pop8_outcome s with h | ⟨b, u, h, hu⟩ <;> simp only [exec, execPop, h] at he <;> cases he
    · exact .inr (.inr (.inl ⟨rfl, .inr ⟨r, rfl⟩⟩))
    · simp [hu, hrun] at hhalt
  | gld v a =>
    rcases mailboxTarget_outcome s a with ⟨r, h, hfault⟩ | ⟨target, h⟩ <;> simp only [exec, execGld, h] at he <;>
      cases he
    · exact .inr (.inr (.inr ⟨hfault, .inl ⟨v, a, rfl⟩⟩))
    · simp [hrun] at hhalt
  | gst v a =>
    rcases mailboxTarget_outcome s a with ⟨r, h, hfault⟩ | ⟨target, h⟩ <;> simp only [exec, execGst, h] at he <;>
      cases he
    · exact .inr (.inr (.inr ⟨hfault, .inr ⟨v, a, rfl⟩⟩))
    · simp [hrun] at hhalt
  | jz addr12 | jnz addr12 =>
    cases he
    split at hhalt <;> simp [hrun] at hhalt
  | nop | mov | add | sub | ldi | jmp | ld | st | putc =>
    cases he
    simp [hrun] at hhalt

/-! ### HALT (40_cycle R94) -/

theorem exec_halt (code8 : Byte) (s : State) : exec (.halt code8) s = .next (s.haltWith (.halt code8)) := rfl

/-- Settles O28: the word by its layout, and the effect by the halt primitive, on the state after the PC advance when
HALT is fetched. -/
theorem haltRecordsItsCode : Obligations.HaltRecordsItsCode := by
  refine ⟨fun code8 => decode_layoutNumber (.halt code8), fun code8 s => ?_, fun code8 s hf => ?_⟩
  · exact ⟨s.haltWith (.halt code8), exec_halt code8 s, rfl, rfl, code8, rfl⟩
  · calc step s = exec (.halt code8) s.advancePC := step_of_decodes hf (decode_layoutNumber (.halt code8))
      _ = .next (s.advancePC.haltWith (.halt code8)) := exec_halt code8 _

end Sys2Proof.Machine
end

section
/-! Proofs about scenarios (20_memory R64, R65): a move is one instance's own, and the others see the store it
leaves. -/

namespace Sys2Proof.Machine

/-- Settles O56: the move of an instance that is there is its own over the shared store, and it alone is replaced. -/
theorem scenarioMoveTouchesOneInstance : Obligations.ScenarioMoveTouchesOneInstance := by
  intro sc k m s hs
  obtain ⟨t, ht⟩ := hostMove_answers m (sc.sees s)
  have hk : k < sc.instances.length := (List.getElem?_eq_some_iff.1 hs).1
  refine ⟨t, sc.after k t, ht, by simp [Scenario.move, hs, ht], ?_, rfl, fun j hj => ?_⟩
  · exact List.getElem?_set_self hk
  · exact List.getElem?_set_ne hj.symm

/-- Two instances have one mailbox geometry. -/
def OneGeometry (p q : Params) : Prop := p.numAgents = q.numAgents ∧ p.mailboxSize = q.mailboxSize

theorem mailboxKeyInRange_congr {p q : Params} (h : OneGeometry p q) (k : Nat) :
    mailboxKeyInRange p k = mailboxKeyInRange q k := by
  rw [mailboxKeyInRange, mailboxKeyInRange, h.1, h.2]

/-- An instance keeps its invariant over the store that another instance of the same geometry left. -/
theorem State.Inv.withMailboxes_of {s t : State} (hs : s.Inv) (ht : t.Inv) (hgeom : OneGeometry s.params t.params) :
    ({ s with mailboxes := t.mailboxes } : State).Inv := by
  refine hs.withMailboxes ht.mailboxes_wf ?_
  simp only [mailboxKeyInRange_congr hgeom]
  exact ht.mailboxes_range

/-- Settles O19: the instance that moved keeps its invariant as in any move, every other one sees a store that this
instance's invariant holds in range, and no move changes a geometry. -/
theorem everyScenarioMoveKeepsTheInvariant : Obligations.EveryScenarioMoveKeepsTheInvariant := by
  intro sc sc' k m hinv hgeom hmove
  rw [Scenario.move] at hmove
  split at hmove
  next =>
    cases hmove
    exact ⟨hinv, hgeom⟩
  next s hs =>
    obtain ⟨t, ht⟩ := hostMove_answers m (sc.sees s)
    simp only [ht, Host.Outcome.next.injEq] at hmove
    subst hmove
    have hmem : s ∈ sc.instances := List.mem_of_getElem? hs
    have htinv : t.Inv := keptByUpdates_inv.keeps_hostMove ht (hinv s hmem)
    obtain ⟨hparams, -, -⟩ := (keptByUpdates_sameLaunch _).keeps_hostMove ht (sameLaunch_refl (sc.sees s))
    have hold : ∀ u ∈ (sc.after k t).instances, ∃ v ∈ sc.instances, u.params = v.params ∧ (u = t ∨ u = v) := by
      intro u hu
      rcases List.mem_or_eq_of_mem_set hu with hu | rfl
      · exact ⟨u, hu, rfl, .inr rfl⟩
      · exact ⟨s, hmem, hparams, .inl rfl⟩
    refine ⟨fun u hu => ?_, fun u hu u' hu' => ?_⟩
    · obtain ⟨v, hv, -, rfl | rfl⟩ := hold u hu
      · exact htinv
      · have hgeom' : OneGeometry u.params t.params := by rw [hparams]; exact hgeom u hv s hmem
        exact State.Inv.withMailboxes_of (s := sc.sees u) (hinv u hv) htinv hgeom'
    · obtain ⟨v, hv, huv, -⟩ := hold u hu
      obtain ⟨v', hv', huv', -⟩ := hold u' hu'
      rw [huv, huv']
      exact hgeom v hv v' hv'

end Sys2Proof.Machine
end

section
/-! Proofs about construction (70_reset R136, 10_state R33): which launches the host accepts, what it places where, and
that what it places meets the invariant. -/

namespace Sys2Proof.Machine

variable {l : Launch} {d : PowerOn} {s : State}

/-! ### The host's checks -/

theorem check_eq_none_iff (l : Launch) :
    l.check = none ↔ l.params.wf = true ∧ l.role.fits l.params = true ∧ l.rngSeed ≠ 0x00#8 ∧ l.imageFits = true := by
  simp only [Launch.check, Params.wf, Bool.and_eq_true]
  split_ifs <;> simp_all

theorem construct_eq_ok_iff : construct l d = .ok s ↔ l.check = none ∧ s = l.state d := by
  unfold construct
  split
  next e he => simp [he]
  next hnone => simp [hnone, eq_comm]

/-- Settles O15: construction answers by its checks, and an error where one fails. -/
theorem badLaunchesAreRefused : Obligations.BadLaunchesAreRefused := by
  intro l d
  refine ⟨?_, ?_⟩
  · rw [← check_eq_none_iff]
    exact ⟨fun ⟨s, hs⟩ => (construct_eq_ok_iff.1 hs).1, fun hnone => ⟨l.state d, construct_eq_ok_iff.2 ⟨hnone, rfl⟩⟩⟩
  · cases h : construct l d with
    | ok s => exact .inl ⟨s, rfl⟩
    | error e => exact .inr ⟨e, rfl⟩

/-! ### The drawn stores -/

theorem powerOn_memory_below (d : PowerOn) : d.memory.below Config.memSize = true := by
  refine ofCells_keeps (fun m => m.below Config.memSize = true) _ rfl fun m hm c hc => ?_
  exact write_below m _ _ _ hm (of_decide_eq_true (List.mem_filter.1 hc).2)

theorem powerOn_latch_below (d : PowerOn) : d.latch.below Config.memSize = true := by
  refine ofCells_keeps (fun m => m.below Config.memSize = true) _ rfl fun m hm c hc => ?_
  exact write_below m _ _ _ hm (of_decide_eq_true (List.mem_filter.1 hc).2)

theorem mailboxStore_range (d : PowerOn) (p : Params) :
    (d.mailboxStore p).all (fun c => mailboxKeyInRange p c.1) = true := by
  refine ofCells_keeps (fun m => m.all (fun c => mailboxKeyInRange p c.1) = true) _ rfl fun m hm c hc => ?_
  rw [List.all_eq_true] at hm ⊢
  exact write_all _ m _ _ hm fun _ => (List.mem_filter.1 hc).2

theorem powerOn_memory_read (d : PowerOn) (a : Word) :
    d.memory.read a.toNat = (Memory.ofCells d.mem).read a.toNat :=
  read_ofCells_filter _ _ _ fun _ _ hc => decide_eq_true (hc ▸ a.isLt)

theorem powerOn_latch_read (d : PowerOn) (a : Word) :
    d.latch.read a.toNat = (Memory.ofCells d.keyLatch).read a.toNat :=
  read_ofCells_filter _ _ _ fun _ _ hc => decide_eq_true (hc ▸ a.isLt)

theorem mailboxStore_read (d : PowerOn) {p : Params} {m : Byte} {o : Word} (hm : m.toNat < p.numAgents)
    (ho : o.toNat < p.mailboxSize) :
    (d.mailboxStore p).read (mailboxKey m o) = (Memory.ofCells d.mailboxes).read (mailboxKey m o) :=
  read_ofCells_filter _ _ _ fun _ _ hc => hc ▸ mailboxKeyInRange_mailboxKey hm ho

/-! ### The program and the storage image -/

/-- The main space before the image: the draw with the program written over it. -/
def programMemory (l : Launch) (d : PowerOn) : Memory := d.memory.writeList Config.codeBase l.program

theorem powerOn_memory_wf (d : PowerOn) : d.memory.wf = true := ofCells_wf _

theorem programMemory_wf (l : Launch) (d : PowerOn) : (programMemory l d).wf = true :=
  writeList_wf _ _ _ (powerOn_memory_wf d)

theorem memory_of_storageRegion {r : Region} (hr : l.storageRegion = some r) :
    l.memory d = (programMemory l d).writeList r.start l.storageImage := by
  simp [Launch.memory, Launch.placeImage, hr, programMemory]

theorem memory_of_no_storageRegion (hr : l.storageRegion = none) : l.memory d = programMemory l d := by
  simp [Launch.memory, Launch.placeImage, hr, programMemory]

/-- What the host's checks say of the program and of the region the image goes to. -/
theorem placement_of_check (hcheck : l.check = none) :
    l.params.progEnd ≤ Config.progEndMax ∧
    ∀ r, l.storageRegion = some r → r.start + l.storageImage.length ≤ r.stop ∧ r.stop ≤ Config.memSize ∧
      (r.stop ≤ Config.codeBase ∨ l.params.progEnd ≤ r.start) := by
  obtain ⟨hwf, -, -, himage⟩ := (check_eq_none_iff l).1 hcheck
  simp only [Params.wf, Bool.and_eq_true, and_assoc] at hwf
  obtain ⟨hmap, hfits, -⟩ := hwf
  refine ⟨of_decide_eq_true hfits, fun r hr => ?_⟩
  obtain ⟨hspace, -, -, hcode⟩ := (regionMapOk_iff l.params).1 hmap
  have hmem : r ∈ l.params.regionMap := List.mem_of_find?_eq_some hr
  have hin := hspace r hmem
  simp only [Region.inSpace, Bool.and_eq_true, decide_eq_true_eq] at hin
  simp only [Launch.imageFits, hr, decide_eq_true_eq] at himage
  exact ⟨himage, hin.2, (apartFrom_iff r _ _).1 (hcode r hmem)⟩

theorem memory_wf (l : Launch) (d : PowerOn) : (l.memory d).wf = true := by
  cases hr : l.storageRegion with
  | none => rw [memory_of_no_storageRegion hr]; exact programMemory_wf l d
  | some r => rw [memory_of_storageRegion hr]; exact writeList_wf _ _ _ (programMemory_wf l d)

theorem memory_below (hcheck : l.check = none) : (l.memory d).below Config.memSize = true := by
  obtain ⟨hfits, hregion⟩ := placement_of_check hcheck
  have hprogram : (programMemory l d).below Config.memSize = true := by
    refine writeList_below _ _ _ _ (powerOn_memory_below d) (Nat.le_trans hfits ?_)
    decide
  cases hr : l.storageRegion with
  | none => rwa [memory_of_no_storageRegion hr]
  | some r =>
    obtain ⟨himage, hstop, -⟩ := hregion r hr
    rw [memory_of_storageRegion hr]
    exact writeList_below _ _ _ _ hprogram (Nat.le_trans himage hstop)

/-- Outside the image the main space is the draw with the program. -/
theorem memory_read_outside_image {a : Nat}
    (ha : ∀ r, l.storageRegion = some r → ¬ (r.start ≤ a ∧ a < r.start + l.storageImage.length)) :
    (l.memory d).read a = (programMemory l d).read a := by
  cases hr : l.storageRegion with
  | none => rw [memory_of_no_storageRegion hr]
  | some r =>
    have hout := ha r hr
    rw [memory_of_storageRegion hr, read_writeList_other _ _ _ _ (by omega)]

theorem memory_read_program (hcheck : l.check = none) {k : Nat} (hk : k < l.program.length) :
    (l.memory d).read (Config.codeBase + k) = l.program[k] := by
  obtain ⟨-, hregion⟩ := placement_of_check hcheck
  have hend : l.params.progEnd = Config.codeBase + l.program.length := rfl
  rw [memory_read_outside_image, programMemory, read_writeList_same _ _ _ _ hk (powerOn_memory_wf d)]
  intro r hr
  obtain ⟨himage, -, hapart⟩ := hregion r hr
  omega

theorem memory_read_image {r : Region} (hr : l.storageRegion = some r) {k : Nat} (hk : k < l.storageImage.length) :
    (l.memory d).read (r.start + k) = l.storageImage[k] := by
  rw [memory_of_storageRegion hr, read_writeList_same _ _ _ _ hk (programMemory_wf l d)]

/-! ### The constructed instance -/

/-- Settles O14: the host's checks keep the image off the program, and each store reads back what was drawn or
placed. -/
theorem constructionGivesTheResetState : Obligations.ConstructionGivesTheResetState := by
  intro l d s hs
  obtain ⟨hcheck, rfl⟩ := construct_eq_ok_iff.1 hs
  refine ⟨rfl, rfl, rfl, rfl, rfl, rfl, rfl, rfl, rfl, rfl, flagBits_toNat d.f, rfl,
    fun k hk => memory_read_program hcheck hk, fun r hr k hk => memory_read_image hr hk, fun a hprog himage => ?_,
    fun m o hm ho => mailboxStore_read d hm ho, fun a => powerOn_latch_read d a⟩
  calc (l.memory d).read a.toNat = (programMemory l d).read a.toNat := memory_read_outside_image himage
    _ = d.memory.read a.toNat := read_writeList_other _ _ _ _ (by omega)
    _ = (Memory.ofCells d.mem).read a.toNat := powerOn_memory_read d a

/-- Settles O17: the draw is cut to the bytes that exist, and the checks are those of the invariant. -/
theorem invariantHoldsAtConstruction : Obligations.InvariantHoldsAtConstruction := by
  intro l d s hs
  obtain ⟨hcheck, rfl⟩ := construct_eq_ok_iff.1 hs
  obtain ⟨hwf, hrole, hseed, -⟩ := (check_eq_none_iff l).1 hcheck
  exact {
    mem_wf := memory_wf l d
    mem_below := memory_below hcheck
    mailboxes_wf := ofCells_wf _
    mailboxes_range := mailboxStore_range d l.params
    latch_wf := ofCells_wf _
    latch_below := powerOn_latch_below d
    flags_reserved := flagBits_flagBits d.f
    params_wf := hwf
    role_fits := hrole
    seed_pos := hseed
    reason_iff := by simp [Launch.state] }

theorem construct_reset : construct Launch.reset PowerOn.reset = .ok State.reset := rfl

/-- Settles O13: the reset state is the launch of the empty program with the draw of zeros. -/
theorem resetStateIsAsTheRulesSay : Obligations.ResetStateIsAsTheRulesSay :=
  ⟨rfl, rfl, rfl, rfl, rfl, construct_reset⟩

/-- Settles O16: the reset state is a constructed one. -/
theorem invariantHoldsAtReset : Obligations.InvariantHoldsAtReset :=
  invariantHoldsAtConstruction _ _ _ construct_reset

end Sys2Proof.Machine
end

section
/-! Proofs about the registers an instruction may write and the stores it may reach, over all instructions at once. -/

namespace Sys2Proof.Machine

variable {s t u : State} {i : Instr}

/-! ### Rules for the register frame -/

theorem sameRegsBut_refl (L : List Reg) (s : State) : SameRegsBut L s s := fun _ _ => rfl

theorem SameRegsBut.trans {L : List Reg} (hst : SameRegsBut L s t) (htu : SameRegsBut L t u) : SameRegsBut L s u :=
  fun r hr => (htu r hr).trans (hst r hr)

theorem SameRegsBut.mono {L L' : List Reg} (h : SameRegsBut L s t) (hsub : L ⊆ L') : SameRegsBut L' s t :=
  fun r hr => h r fun hL => hr (hsub hL)

/-- An update of anything but the register fields changes no register. -/
theorem sameRegsBut_of_fields (L : List Reg) (hgpr : t.gpr = s.gpr) (hi : t.i = s.i) (hsp : t.sp = s.sp)
    (hpc : t.pc = s.pc) (hf : t.f = s.f) : SameRegsBut L s t := by
  intro r _
  cases r <;> simp [hgpr, hi, hsp, hpc, hf]

theorem sameRegsBut_haltWith (L : List Reg) (s : State) (r : HaltReason) : SameRegsBut L s (s.haltWith r) :=
  sameRegsBut_of_fields L rfl rfl rfl rfl rfl

theorem sameRegsBut_read8 (L : List Reg) (s : State) (a : Word) : SameRegsBut L s (s.read8 a).2 :=
  sameRegsBut_of_fields L (by simp) (by simp) (by simp) (by simp) (by simp)

theorem sameRegsBut_write8 (L : List Reg) (s : State) (a : Word) (v : Byte) : SameRegsBut L s (s.write8 a v) :=
  sameRegsBut_of_fields L (by simp) (by simp) (by simp) (by simp) (by simp)

theorem sameRegsBut_writePC (s : State) (a : Word) : SameRegsBut [.pc] s (s.writePC a) :=
  sameRegsBut_writeReg s .pc a

theorem sameRegsBut_writeSP (s : State) (v : Byte) : SameRegsBut [.sp] s (s.writeSP v) :=
  sameRegsBut_sp rfl rfl rfl rfl

theorem sameRegsBut_writeFlags (s : State) (z c n v : Bool) : SameRegsBut [.f] s (s.writeFlags z c n v) := by
  intro r hr
  cases r with
  | f => simp at hr
  | gpr | i | sp | pc => simp

theorem sameRegsBut_writeAlu (s : State) (rd : Reg) (x : AluResult) : SameRegsBut [rd, .f] s (s.writeAlu rd x) := by
  have hreg : SameRegsBut [rd, .f] s (s.writeReg rd (zext16 x.r)) := (sameRegsBut_writeReg s rd _).mono (by simp)
  unfold State.writeAlu
  split
  · exact hreg.trans ((sameRegsBut_writeFlags _ _ _ _ _).mono (by simp))
  · exact hreg

/-! ### The registers of every instruction -/

/-- Settles O21: what each instruction does, as one update after another, each with its own frame. -/
theorem registersChangeOnlyAsNamed : Obligations.RegistersChangeOnlyAsNamed := by
  intro i s t he
  rcases exec_cases i s t he with ⟨r, -, rfl⟩ | ⟨rfl, rfl⟩ | ⟨d, _, rfl, rfl⟩ | ⟨d, _, rfl, rfl⟩ | ⟨d, _, rfl, rfl⟩ |
    ⟨d, v, rfl, rfl⟩ | ⟨a, rfl, rfl⟩ | ⟨a, rfl | rfl, rfl | rfl⟩ | ⟨a, rfl, -, rfl⟩ | ⟨rfl, -, w, rfl⟩ |
    ⟨r, rfl, -, rfl⟩ | ⟨r, v, rfl, -, rfl⟩ | ⟨a, v, rfl, rfl⟩ | ⟨a, v, rfl, rfl⟩ | ⟨r, a, v, rfl, rfl⟩ |
    ⟨_, a, v, _, o, rfl, -, -, -, rfl⟩ | ⟨r, v, rfl, rfl⟩
  · exact sameRegsBut_haltWith _ s r
  · exact sameRegsBut_refl _ t
  · exact sameRegsBut_writeReg s d _
  · exact sameRegsBut_writeAlu s d _
  · exact sameRegsBut_writeAlu s d _
  · exact sameRegsBut_writeReg s d _
  · exact sameRegsBut_writePC s _
  · exact sameRegsBut_refl _ t
  · exact sameRegsBut_writePC s _
  · exact sameRegsBut_refl _ t
  · exact sameRegsBut_writePC s _
  · exact sameRegsBut_sp_pc (by simp) (by simp) (by simp)
  · exact sameRegsBut_sp_pc (by simp) (by simp) (by simp)
  · exact sameRegsBut_sp (by simp) (by simp) (by simp) (by simp)
  · have hread : SameRegsBut [r, .sp] s (s.read8 (stackSlot s.sp)).2 := sameRegsBut_read8 _ s _
    have hsp := hread.trans ((sameRegsBut_writeSP _ (s.sp - 1)).mono (by simp))
    exact hsp.trans ((sameRegsBut_writeReg _ r _).mono (by simp))
  · exact (sameRegsBut_read8 _ s _).trans (sameRegsBut_writeReg _ _ _)
  · exact sameRegsBut_write8 _ s _ v
  · exact sameRegsBut_writeReg s r _
  · exact sameRegsBut_of_fields _ rfl rfl rfl rfl rfl
  · exact sameRegsBut_of_fields _ rfl rfl rfl rfl rfl

/-! ### The stores -/

/-- Which of the four stores each instruction can change. -/
theorem exec_stores (he : exec i s = .next t) :
    (¬ mayStore i → t.mem = s.mem ∧ t.keyLatch = s.keyLatch) ∧
    ((∀ v a, i ≠ .gst v a) → t.mailboxes = s.mailboxes) ∧
    (¬ mayStore i → (∀ r, i ≠ .putc r) → t.console = s.console) := by
  rcases exec_cases i s t he with ⟨r, -, rfl⟩ | ⟨rfl, rfl⟩ | ⟨d, _, rfl, rfl⟩ | ⟨d, _, rfl, rfl⟩ | ⟨d, _, rfl, rfl⟩ |
    ⟨d, v, rfl, rfl⟩ | ⟨a, rfl, rfl⟩ | ⟨a, rfl | rfl, rfl | rfl⟩ | ⟨a, rfl, -, rfl⟩ | ⟨rfl, -, w, rfl⟩ |
    ⟨r, rfl, -, rfl⟩ | ⟨r, v, rfl, -, rfl⟩ | ⟨a, v, rfl, rfl⟩ | ⟨a, v, rfl, rfl⟩ | ⟨r, a, v, rfl, rfl⟩ |
    ⟨_, a, v, _, o, rfl, -, -, -, rfl⟩ | ⟨r, v, rfl, rfl⟩ <;> simp [mayStore]

theorem exec_mailboxes (hi : ∀ v a, i ≠ .gst v a) (he : exec i s = .next t) : t.mailboxes = s.mailboxes := by
  obtain ⟨-, hmb, -⟩ := exec_stores he
  exact hmb hi

/-- Under the invariant the stack is plain, so that a CALL stores to the array and to no device. -/
theorem exec_call_cases {addr12 : BitVec 12} (hinv : s.Inv) (he : exec (.call addr12) s = .next t) :
    (s.sp.toNat + 2 < Config.stackSize ∧ t = calledState addr12 s) ∨ t = s.haltWith .stackOverflow := by
  by_cases hroom : s.sp.toNat + 2 < Config.stackSize
  · exact .inl ⟨hroom, Host.Outcome.next.inj (he.symm.trans (exec_call_of_room addr12 hinv hroom))⟩
  · exact .inr (Host.Outcome.next.inj (he.symm.trans (exec_call_overflow addr12 (Nat.not_lt.1 hroom))))

/-- The same of a PUSH. -/
theorem exec_push_cases {r : Reg} (hinv : s.Inv) (he : exec (.push r) s = .next t) :
    (s.sp.toNat + 1 < Config.stackSize ∧ t = pushedState r s) ∨ t = s.haltWith .stackOverflow := by
  by_cases hroom : s.sp.toNat + 1 < Config.stackSize
  · exact .inl ⟨hroom, Host.Outcome.next.inj (he.symm.trans (exec_push_of_room r hinv hroom))⟩
  · have hfull : s.sp.toNat = 255 := by unfold Config.stackSize at hroom; omega
    exact .inr (Host.Outcome.next.inj (he.symm.trans (exec_push_overflow r hfull)))

/-- Settles O22: the stores by the inversion of `exec`, and the devices under PUSH and CALL by the plain stack. -/
theorem storesReachedByFixedInstructions : Obligations.StoresReachedByFixedInstructions := by
  intro i s t he
  obtain ⟨hmem, hmb, hconsole⟩ := exec_stores he
  refine ⟨fun hi => ?_, fun hi m o => by rw [State.mbRead, hmb hi, State.mbRead], hconsole, fun hinv hst hputc => ?_⟩
  · obtain ⟨hmem, hlatch⟩ := hmem hi
    exact ⟨fun a => by rw [State.memByte, hmem, State.memByte], fun a => by rw [State.latch, hlatch, State.latch]⟩
  · have hdevices : t.console = s.console ∧ t.keyLatch = s.keyLatch := by
      by_cases hi : mayStore i
      · rcases hi with ⟨r, rfl⟩ | ⟨addr12, rfl⟩ | ⟨addr12, rfl⟩
        · rcases exec_push_cases hinv he with ⟨-, rfl⟩ | rfl <;> exact ⟨rfl, rfl⟩
        · rcases exec_call_cases hinv he with ⟨-, rfl⟩ | rfl <;> exact ⟨rfl, rfl⟩
        · exact absurd rfl (hst addr12)
      · exact ⟨hconsole hi hputc, (hmem hi).2⟩
    obtain ⟨hconsole', hlatch⟩ := hdevices
    exact ⟨hconsole', fun a => by rw [State.latch, hlatch, State.latch]⟩

end Sys2Proof.Machine
end

section
/-! Proofs about what an instruction depends on (45_global R115, R116): the role and the mailbox store come in through
GLD and GST alone, and through the one mailbox the role picks. -/

namespace Sys2Proof.Machine

variable {s t u : State} {i : Instr} {role : Role} {store : Memory}

/-! ### The instance under another role and another store -/

/-- The same instance but for its role and for the mailbox store it sees. -/
def State.withView (s : State) (role : Role) (store : Memory) : State := { s with role := role, mailboxes := store }

theorem withView_of_role (h : s.role = role) : s.withView role store = { s with mailboxes := store } := by
  rw [State.withView, ← h]

theorem readReg_withView (s : State) (role : Role) (store : Memory) (r : Reg) :
    (s.withView role store).readReg r = s.readReg r := by
  cases r <;> rfl

theorem writeReg_withView (s : State) (role : Role) (store : Memory) (r : Reg) (v : Word) :
    (s.withView role store).writeReg r v = (s.writeReg r v).withView role store := by
  cases r <;> rfl

theorem writeAlu_withView (s : State) (role : Role) (store : Memory) (rd : Reg) (x : AluResult) :
    (s.withView role store).writeAlu rd x = (s.writeAlu rd x).withView role store := by
  simp only [State.writeAlu, writeReg_withView]
  split <;> rfl

theorem read8_withView (s : State) (role : Role) (store : Memory) (a : Word) :
    (s.withView role store).read8 a = ((s.read8 a).1, (s.read8 a).2.withView role store) := by
  have howner : (s.withView role store).ownerOf a = s.ownerOf a := rfl
  simp only [State.read8, howner]
  split <;> rfl

theorem write8_withView (s : State) (role : Role) (store : Memory) (a : Word) (v : Byte) :
    (s.withView role store).write8 a v = (s.write8 a v).withView role store := by
  have howner : (s.withView role store).ownerOf a = s.ownerOf a := rfl
  simp only [State.write8, howner]
  split <;> rfl

theorem push8_withView (s : State) (role : Role) (store : Memory) (v : Byte) :
    (s.withView role store).push8 v = (s.push8 v).map (·.withView role store) := by
  have hsp : (s.withView role store).sp = s.sp := rfl
  simp only [push8_eq, write8_withView, hsp]
  split <;> rfl

theorem push16_withView (s : State) (role : Role) (store : Memory) (v : Word) :
    (s.withView role store).push16 v = (s.push16 v).map (·.withView role store) := by
  have hsp : (s.withView role store).sp = s.sp := rfl
  simp only [push16_eq, write8_withView, hsp]
  split <;> rfl

theorem pop8_withView (s : State) (role : Role) (store : Memory) :
    (s.withView role store).pop8 = s.pop8.map fun got => (got.1, got.2.withView role store) := by
  have hsp : (s.withView role store).sp = s.sp := rfl
  simp only [pop8_eq, read8_withView, hsp]
  split <;> rfl

theorem pop16_withView (s : State) (role : Role) (store : Memory) :
    (s.withView role store).pop16 = s.pop16.map fun got => (got.1, got.2.withView role store) := by
  have hsp : (s.withView role store).sp = s.sp := rfl
  simp only [pop16_eq, read8_withView, hsp]
  split <;> rfl

/-- An instruction that reaches no mailbox does the same thing whatever the role and the store. -/
theorem exec_withView (hi : ¬ reachesMailbox i) (he : exec i s = .next t) :
    exec i (s.withView role store) = .next (t.withView role store) := by
  cases i with
  | gld v a => exact absurd (.inl ⟨v, a, rfl⟩) hi
  | gst v a => exact absurd (.inr ⟨v, a, rfl⟩) hi
  | nop | halt | jmp =>
    cases he
    rfl
  | mov d r | add d r | sub d r =>
    cases he
    simp only [exec, execMov, execAdd, execSub, readReg_withView, writeAlu_withView]
  | ldi d imm8 =>
    cases he
    simp only [exec, execLdi, writeReg_withView]
  | jz addr12 | jnz addr12 =>
    cases he
    have hz : (s.withView role store).flagZ = s.flagZ := rfl
    simp only [exec, execJz, execJnz, hz]
    split <;> rfl
  | call addr12 =>
    cases hx : s.push16 (s.readReg .pc) <;>
      simp only [exec, execCall, push16_withView, readReg_withView, hx] at he ⊢ <;> cases he <;> rfl
  | push r =>
    cases hx : s.push8 (trunc8 (s.readReg r)) <;>
      simp only [exec, execPush, push8_withView, readReg_withView, hx] at he ⊢ <;> cases he <;> rfl
  | ret =>
    cases hx : s.pop16 <;> simp only [exec, execRet, pop16_withView, hx] at he ⊢ <;> cases he <;> rfl
  | pop r =>
    cases hx : s.pop8 <;> simp only [exec, execPop, pop8_withView, hx] at he ⊢ <;> cases he
    · rfl
    · simp only [Except.map, writeReg_withView, settle_ok]
  | ld addr12 =>
    cases he
    simp only [exec, execLd, read8_withView, writeReg_withView]
  | st addr12 =>
    cases he
    simp only [exec, execSt, readReg_withView, write8_withView]
  | putc r =>
    cases he
    simp only [exec, execPutc, readReg_withView]
    rfl

/-! ### GLD and GST, through the translator (45_global R115, R118, R119) -/

theorem mailboxTarget_id {ra : Reg} {target : Byte × Word} (h : s.mailboxTarget ra = .ok target) :
    target.1 = targetMailbox s.role (s.readReg ra) := by
  rw [mailboxTarget_eq] at h
  split at h
  · cases h
  · split at h
    · cases h
    · cases h
      rfl

theorem mailboxTarget_withView {ra : Reg}
    (hsame : targetMailbox role (s.readReg ra) = targetMailbox s.role (s.readReg ra)) :
    (s.withView role store).mailboxTarget ra = s.mailboxTarget ra := by
  have hpick : targetMailbox (s.withView role store).role (s.readReg ra) = targetMailbox s.role (s.readReg ra) := hsame
  rw [mailboxTarget_eq, mailboxTarget_eq, readReg_withView, hpick]
  rfl

theorem exec_gld_of_target {rv ra : Reg} {target : Byte × Word} (h : s.mailboxTarget ra = .ok target) :
    exec (.gld rv ra) s = .next (s.writeReg rv (zext16 (s.mbRead target.1 target.2))) := by
  simp only [exec, execGld, h, settle_ok]

theorem exec_gld_of_fault {rv ra : Reg} {r : HaltReason} (h : s.mailboxTarget ra = .error r) :
    exec (.gld rv ra) s = .next (s.haltWith r) := by
  simp only [exec, execGld, h, settle_error]

theorem exec_gst_of_target {rv ra : Reg} {target : Byte × Word} (h : s.mailboxTarget ra = .ok target) :
    exec (.gst rv ra) s = .next (s.mbWrite target.1 target.2 (trunc8 (s.readReg rv))) := by
  simp only [exec, execGst, h, settle_ok]

theorem exec_gst_of_fault {rv ra : Reg} {r : HaltReason} (h : s.mailboxTarget ra = .error r) :
    exec (.gst rv ra) s = .next (s.haltWith r) := by
  simp only [exec, execGst, h, settle_error]

/-- GLD depends on the role by the mailbox it picks, and on the store by that mailbox's bytes. -/
theorem exec_gld_withView {rv ra : Reg}
    (hsame : targetMailbox role (s.readReg ra) = targetMailbox s.role (s.readReg ra))
    (hread : ∀ o, store.read (mailboxKey (targetMailbox s.role (s.readReg ra)) o) =
      s.mbRead (targetMailbox s.role (s.readReg ra)) o)
    (he : exec (.gld rv ra) s = .next t) :
    exec (.gld rv ra) (s.withView role store) = .next (t.withView role store) := by
  have hview := mailboxTarget_withView (store := store) hsame
  cases hx : s.mailboxTarget ra with
  | error r =>
    rw [hx] at hview
    cases (exec_gld_of_fault hx).symm.trans he
    exact exec_gld_of_fault hview
  | ok target =>
    rw [hx] at hview
    cases (exec_gld_of_target hx).symm.trans he
    have hbyte : (s.withView role store).mbRead target.1 target.2 = s.mbRead target.1 target.2 := by
      rw [mailboxTarget_id hx]
      exact hread target.2
    rw [exec_gld_of_target hview, hbyte, writeReg_withView]

/-- GST depends on the role by the mailbox it picks, and it does to any store what it does to its own: nothing, or one
write to that mailbox. -/
theorem exec_gst_withView {rv ra : Reg}
    (hsame : targetMailbox role (s.readReg ra) = targetMailbox s.role (s.readReg ra))
    (he : exec (.gst rv ra) s = .next t) :
    (t.mailboxes = s.mailboxes ∧ exec (.gst rv ra) (s.withView role store) = .next (t.withView role store)) ∨
    ∃ o v, t.mailboxes = s.mailboxes.write (mailboxKey (targetMailbox s.role (s.readReg ra)) o) v ∧
      exec (.gst rv ra) (s.withView role store) =
        .next (t.withView role (store.write (mailboxKey (targetMailbox s.role (s.readReg ra)) o) v)) := by
  have hview := mailboxTarget_withView (store := store) hsame
  cases hx : s.mailboxTarget ra with
  | error r =>
    rw [hx] at hview
    cases (exec_gst_of_fault hx).symm.trans he
    exact .inl ⟨rfl, exec_gst_of_fault hview⟩
  | ok target =>
    rw [hx] at hview
    cases (exec_gst_of_target hx).symm.trans he
    rw [← mailboxTarget_id hx, exec_gst_of_target hview, readReg_withView]
    exact .inr ⟨target.2, _, rfl, rfl⟩

/-! ### The role (10_state R29) -/

/-- Another role that picks the same mailbox makes no difference to any instruction. -/
theorem exec_with_role
    (hsame : ∀ v a, i = .gld v a ∨ i = .gst v a → targetMailbox role (s.readReg a) = targetMailbox s.role (s.readReg a))
    (he : exec i s = .next t) : exec i { s with role := role } = .next { t with role := role } := by
  suffices h : exec i (s.withView role s.mailboxes) = .next (t.withView role t.mailboxes) from h
  by_cases hi : reachesMailbox i
  · rcases hi with ⟨v, a, rfl⟩ | ⟨v, a, rfl⟩
    · rw [exec_mailboxes (by simp) he]
      exact exec_gld_withView (hsame v a (.inl rfl)) (fun _ => rfl) he
    · rcases exec_gst_withView (store := s.mailboxes) (hsame v a (.inr rfl)) he with ⟨hmb, h⟩ | ⟨o, x, hmb, h⟩ <;>
        rw [hmb, h]
  · rw [exec_mailboxes (fun v a hva => hi (.inr ⟨v, a, hva⟩)) he]
    exact exec_withView hi he

/-- Settles O23: no update writes the role, and only the two mailbox instructions could tell one role from another. -/
theorem roleIsFixedAndOnlyPicksTheMailbox : Obligations.RoleIsFixedAndOnlyPicksTheMailbox := by
  refine ⟨fun s t hs => ?_, fun i s t role hi he => ?_, fun i s t role hsame he => exec_with_role hsame he⟩
  · obtain ⟨-, -, hrole⟩ := (keptByUpdates_sameLaunch s).keeps_step hs (sameLaunch_refl s)
    exact hrole
  · refine exec_with_role (fun v a hva => absurd ?_ hi) he
    exact hva.imp (fun h => ⟨v, a, h⟩) (fun h => ⟨v, a, h⟩)

/-! ### Isolation of an agent (45_global R116) -/

/-- `s` is an instance of agent `id`, and `u` is the same instance over a store that agrees with its own on
mailbox `id`. -/
def SameButOtherMailboxes (id : Byte) (s u : State) : Prop :=
  s.role = .agent id ∧ s.mailboxes.wf = true ∧ ∃ store : Memory, store.wf = true ∧
    (∀ o, store.read (mailboxKey id o) = s.mbRead id o) ∧ u = { s with mailboxes := store }

theorem targetMailbox_agent {id : Byte} (hrole : s.role = .agent id) (opv : Word) : targetMailbox s.role opv = id := by
  rw [hrole, targetMailbox]

/-- Writing one byte to two stores that agree on a mailbox leaves them in agreement on it. -/
theorem read_write_agree {m m' : Memory} (hm : m.wf = true) (hm' : m'.wf = true) {k : Nat} (h : m'.read k = m.read k)
    (a : Nat) (v : Byte) : (m'.write a v).read k = (m.write a v).read k := by
  by_cases hk : k = a
  · rw [hk, read_write_same_wf _ _ _ hm, read_write_same_wf _ _ _ hm']
  · rw [read_write_other _ _ _ _ hk, read_write_other _ _ _ _ hk, h]

theorem exec_sameButOtherMailboxes {id : Byte} (h : SameButOtherMailboxes id s u) (he : exec i s = .next t) :
    ∃ u', exec i u = .next u' ∧ SameButOtherMailboxes id t u' := by
  obtain ⟨hrole, hwf, store, hstore, hread, rfl⟩ := h
  obtain ⟨-, -, hroleEq⟩ := (keptByUpdates_sameLaunch s).keeps_exec he (sameLaunch_refl s)
  have htrole : t.role = .agent id := hroleEq.trans hrole
  have hunchanged (hmb : t.mailboxes = s.mailboxes)
      (hexec : exec i (s.withView s.role store) = .next (t.withView s.role store)) :
      ∃ u', exec i { s with mailboxes := store } = .next u' ∧ SameButOtherMailboxes id t u' :=
    ⟨_, hexec, htrole, hmb ▸ hwf, store, hstore, fun o => by rw [hread, State.mbRead, State.mbRead, hmb],
      withView_of_role hroleEq⟩
  by_cases hi : reachesMailbox i
  · rcases hi with ⟨v, a, rfl⟩ | ⟨v, a, rfl⟩
    · refine hunchanged (exec_mailboxes (by simp) he) (exec_gld_withView rfl (fun o => ?_) he)
      rw [targetMailbox_agent hrole, hread]
    · rcases exec_gst_withView (store := store) rfl he with ⟨hmb, hexec⟩ | ⟨o, x, hmb, hexec⟩
      · exact hunchanged hmb hexec
      · refine ⟨_, hexec, htrole, hmb ▸ write_wf _ _ _ hwf, _, write_wf _ _ _ hstore, fun o' => ?_,
          withView_of_role hroleEq⟩
        rw [State.mbRead, hmb]
        exact read_write_agree hwf hstore (hread o') _ _
  · exact hunchanged (exec_mailboxes (fun v a hva => hi (.inr ⟨v, a, hva⟩)) he) (exec_withView hi he)

/-- The sequencer sees no mailbox, so both instances come to the same end or dispatch the same instruction. -/
theorem step_sameButOtherMailboxes {id : Byte} (h : SameButOtherMailboxes id s u) (hs : step s = .next t) :
    ∃ u', step u = .next u' ∧ SameButOtherMailboxes id t u' := by
  have hu := h
  obtain ⟨hrole, hwf, store, hstore, hread, rfl⟩ := hu
  rcases step_cases s t hs with ⟨hhalt, rfl⟩ | ⟨hrun, hrange, rfl⟩ | ⟨hrun, hrange, ⟨r, hf, rfl⟩ | ⟨i, hf, he⟩⟩
  · exact ⟨_, step_of_halted hhalt, h⟩
  · have hout : s.pc.toNat < Config.codeBase ∨ s.params.progEnd ≤ s.pc.toNat := by
      rw [Bool.eq_false_iff, Ne, fetchInRange_iff] at hrange
      omega
    exact ⟨_, nextStepFetchFaults_of_outside hrun hout, hrole, hwf, store, hstore, hread, rfl⟩
  · exact ⟨_, step_of_fetchInstr_error hrun hrange hf, hrole, hwf, store, hstore, hread, rfl⟩
  · have hadvance : SameButOtherMailboxes id s.advancePC ({ s with mailboxes := store } : State).advancePC :=
      ⟨hrole, hwf, store, hstore, hread, rfl⟩
    obtain ⟨u', hu', hsame⟩ := exec_sameButOtherMailboxes hadvance he
    exact ⟨u', (step_of_fetchInstr_ok (s := { s with mailboxes := store }) hrun hrange hf).trans hu', hsame⟩

theorem hostMove_sameButOtherMailboxes {id : Byte} {m : HostMove} (h : SameButOtherMailboxes id s u)
    (hm : hostMove m s = .next t) : ∃ u', hostMove m u = .next u' ∧ SameButOtherMailboxes id t u' := by
  cases m with
  | step => exact step_sameButOtherMailboxes h hm
  | key a v =>
    cases hm
    obtain ⟨hrole, hwf, store, hstore, hread, rfl⟩ := h
    refine ⟨_, rfl, ?_⟩
    by_cases hkey : s.ownerOf a = some .keyboard
    · have hkey' : ({ s with mailboxes := store } : State).ownerOf a = some .keyboard := hkey
      rw [State.hostKey, State.hostKey, if_pos hkey, if_pos hkey']
      exact ⟨hrole, hwf, store, hstore, hread, rfl⟩
    · have hkey' : ¬ ({ s with mailboxes := store } : State).ownerOf a = some .keyboard := hkey
      rw [State.hostKey, State.hostKey, if_neg hkey, if_neg hkey']
      exact ⟨hrole, hwf, store, hstore, hread, rfl⟩

theorem runMoves_sameButOtherMailboxes {id : Byte} {ms : List HostMove} (h : SameButOtherMailboxes id s u)
    (hr : runMoves ms s = .next t) : ∃ u', runMoves ms u = .next u' ∧ SameButOtherMailboxes id t u' := by
  induction ms generalizing s u with
  | nil => exact ⟨u, rfl, Host.Outcome.next.inj hr ▸ h⟩
  | cons m ms ih =>
    obtain ⟨s', hs'⟩ := hostMove_answers m s
    obtain ⟨u', hu', hsame⟩ := hostMove_sameButOtherMailboxes h hs'
    simp only [runMoves, hs'] at hr
    obtain ⟨u'', hu'', hsame'⟩ := ih hsame hr
    exact ⟨u'', by simp only [runMoves, hu', hu''], hsame'⟩

/-- The instance is agent `id`'s, and no mailbox but its own differs from `s`. -/
def OtherMailboxesAsIn (s : State) (id : Byte) (t : State) : Prop :=
  t.role = .agent id ∧ ∀ (m : Byte) (o : Word), m ≠ id → t.mbRead m o = s.mbRead m o

theorem keptByUpdates_otherMailboxesAsIn (s : State) (id : Byte) : KeptByUpdates (OtherMailboxesAsIn s id) where
  haltWith _ _ _ h := h
  writeReg t r v h := by simpa [OtherMailboxesAsIn, State.mbRead] using h
  writeFlags _ _ _ _ _ h := h
  writePC _ _ h := h
  writeSP _ _ h := h
  setMemByte _ _ _ h := h
  setLatch _ _ _ h := h
  consoleAppend _ _ h := h
  draw _ h := h
  mbWrite t opv o v _ _ h := by
    obtain ⟨hrole, hsame⟩ := h
    refine ⟨hrole, fun m o' hm => ?_⟩
    have hkey : mailboxKey m o' ≠ mailboxKey (targetMailbox t.role opv) o := fun heq =>
      hm ((mailboxKey_inj _ _ _ _ heq).1.trans (targetMailbox_agent hrole opv))
    exact (read_write_other _ _ _ _ hkey).trans (hsame m o' hm)

/-- Settles O54: the translator answers the agent's own id; an instruction that does not go through it neither reads nor
writes the store; and over a run the two directions of isolation are an invariant and a simulation. -/
theorem agentReachesItsOwnMailboxOnly : Obligations.AgentReachesItsOwnMailboxOnly := by
  refine ⟨fun s id ra target hrole h => ?_, fun i s t store hi he => ?_, fun ms s t id hrole hr => ?_,
    fun ms s t id store hrole hwf hstore hread hr => ?_⟩
  · rw [mailboxTarget_id h, targetMailbox_agent hrole]
  · obtain ⟨-, -, hrole⟩ := (keptByUpdates_sameLaunch s).keeps_exec he (sameLaunch_refl s)
    refine ⟨exec_mailboxes (fun v a hva => hi (.inr ⟨v, a, hva⟩)) he, ?_⟩
    exact (exec_withView (role := s.role) hi he).trans (congrArg _ (withView_of_role hrole))
  · obtain ⟨-, hsame⟩ := (keptByUpdates_otherMailboxesAsIn s id).keeps_runMoves hr ⟨hrole, fun _ _ _ => rfl⟩
    exact hsame
  · obtain ⟨u', hu', -, -, store', -, hread', rfl⟩ :=
      runMoves_sameButOtherMailboxes ⟨hrole, hwf, store, hstore, hread, rfl⟩ hr
    exact ⟨store', hu', hread'⟩

end Sys2Proof.Machine
end

section
/-! Proofs about MOV, LDI, ADD, SUB, JZ, JNZ and PUTC (41_alu, 42_control_flow R106, R107, 46_system R121): a byte
written to a register, with the flags where the operation has any, and what reads the flags. -/

namespace Sys2Proof.Machine

variable {s : State}

/-! ### A byte written through the W port -/

theorem readReg_writeReg_byte (s : State) (r : Reg) (v : Byte) :
    (s.writeReg r (zext16 v)).readReg r = afterByteWrite r v := by
  cases r with
  | f =>
    rw [readReg_writeReg_f, trunc8_zext16, afterByteWrite, if_pos rfl, flagBits]
  | gpr | i | sp | pc => simp [afterByteWrite]

/-- A byte in PC is below CODE_BASE, so the next fetch is outside the program. -/
theorem nextStepFetchFaults_of_byte {t : State} {v : Byte} (hrun : t.halted = false) (hpc : t.pc = zext16 v) :
    NextStepFetchFaults t := by
  refine nextStepFetchFaults_of_outside hrun (.inl ?_)
  have := v.isLt
  rw [hpc, zext16_toNat, Config.codeBase]
  omega

theorem nextStepFetchFaults_writeReg_pc {r : Reg} (v : Byte) (hr : r = .pc) (hrun : s.halted = false) :
    NextStepFetchFaults (s.writeReg r (zext16 v)) :=
  nextStepFetchFaults_of_byte (v := v) (by rwa [writeReg_halted]) (by rw [hr, writeReg_pc_pc])

theorem trunc8_eq_ofNat (v : Word) : trunc8 v = BitVec.ofNat 8 v.toNat := (BitVec.ofNat_toNat 8 v).symm

/-! ### MOV and LDI -/

theorem exec_mov (rd rs : Reg) (s : State) :
    exec (.mov rd rs) s = .next (s.writeReg rd (zext16 (trunc8 (s.readReg rs)))) := rfl

theorem exec_ldi (rd : Reg) (imm8 : Byte) (s : State) : exec (.ldi rd imm8) s = .next (s.writeReg rd (zext16 imm8)) :=
  rfl

/-- Settles O30: MOV is one byte written through the W port. -/
theorem movCopiesTheLowByte : Obligations.MovCopiesTheLowByte := by
  refine ⟨fun d r => decode_layoutNumber (.mov d r), fun rd rs s => ?_⟩
  rw [← trunc8_eq_ofNat]
  exact ⟨_, exec_mov rd rs s, readReg_writeReg_byte s rd _, sameRegsBut_writeReg s rd _, onlyRegs_writeReg s rd _,
    nextStepFetchFaults_writeReg_pc _⟩

/-- Settles O33: LDI is one byte written through the W port. -/
theorem ldiWritesItsImmediate : Obligations.LdiWritesItsImmediate :=
  ⟨fun d imm8 => decode_layoutNumber (.ldi d imm8), fun rd imm8 s => ⟨_, exec_ldi rd imm8 s,
    readReg_writeReg_byte s rd imm8, sameRegsBut_writeReg s rd _, onlyRegs_writeReg s rd _,
    nextStepFetchFaults_writeReg_pc imm8⟩⟩

/-! ### ADD and SUB -/

theorem packFlags_toNat (z c n v : Bool) :
    (packFlags z c n v).toNat = z.toNat + 2 * c.toNat + 4 * n.toNat + 8 * v.toNat := by
  cases z <;> cases c <;> cases n <;> cases v <;> rfl

theorem writeAlu_aluFlags (s : State) (rd : Reg) (r : Byte) (overflow : Bool) :
    s.writeAlu rd (aluFlags r overflow) =
      (s.writeReg rd (zext16 r)).writeFlags (r == 0x00#8) overflow (r.getLsbD 7) overflow := rfl

theorem onlyRegs_writeAlu (s : State) (rd : Reg) (x : AluResult) : OnlyRegs s (s.writeAlu rd x) := by
  simp [OnlyRegs, SameMem, SameMailboxes, SameLatch, SameRng, SameConsole, SameControl, State.memByte, State.mbRead,
    State.latch]

/-- F after an operation with flags, in numbers: Z is bit 0, C bit 1, N bit 2 and V, equal to C, bit 3. -/
theorem writeAlu_aluFlags_f (s : State) (rd : Reg) (r : Byte) (p : Prop) [Decidable p] :
    (s.writeAlu rd (aluFlags r (decide p))).f.toNat = (if r.toNat = 0 then 1 else 0) + 2 * (if p then 1 else 0) +
      (if 128 ≤ r.toNat then 4 else 0) + 8 * (if p then 1 else 0) := by
  have hz : (r == 0x00#8) = decide (r.toNat = 0) := by
    rw [Bool.eq_iff_iff, beq_iff_eq, decide_eq_true_iff, BitVec.toNat_eq]
    rfl
  have hn : r.getLsbD 7 = decide (128 ≤ r.toNat) := BitVec.msb_eq_decide r
  rw [writeAlu_aluFlags, writeFlags_f, packFlags_toNat, hz, hn]
  simp [Bool.toNat, Bool.cond_decide]

/-- What ADD and SUB share: a byte result with flags, written to the destination and then to F, which wins. -/
theorem writeAlu_aluFlags_spec (s : State) (rd : Reg) (r : Byte) (p : Prop) [Decidable p] {n : Nat}
    (hr : r.toNat = n % 256) :
    (rd ≠ .f → (s.writeAlu rd (aluFlags r (decide p))).readReg rd = BitVec.ofNat 16 (n % 256)) ∧
    (s.writeAlu rd (aluFlags r (decide p))).f.toNat = (if n % 256 = 0 then 1 else 0) + 2 * (if p then 1 else 0) +
      (if 128 ≤ n % 256 then 4 else 0) + 8 * (if p then 1 else 0) ∧
    SameRegsBut [rd, .f] s (s.writeAlu rd (aluFlags r (decide p))) ∧
    OnlyRegs s (s.writeAlu rd (aluFlags r (decide p))) ∧
    (rd = .pc → s.halted = false → NextStepFetchFaults (s.writeAlu rd (aluFlags r (decide p)))) := by
  refine ⟨fun hrd => ?_, ?_, sameRegsBut_writeAlu s rd _, onlyRegs_writeAlu s rd _, fun hrd hrun => ?_⟩
  · have hflags := sameRegsBut_writeFlags (s.writeReg rd (zext16 r)) (r == 0x00#8) (decide p) (r.getLsbD 7) (decide p)
    rw [writeAlu_aluFlags, hflags rd (by simpa using hrd), readReg_writeReg_byte, afterByteWrite, if_neg hrd]
    exact zext16_eq_ofNat hr
  · rw [writeAlu_aluFlags_f, hr]
  · refine nextStepFetchFaults_of_byte (v := r) (by rwa [writeAlu_halted]) ?_
    rw [writeAlu_aluFlags, writeFlags_pc, hrd, writeReg_pc_pc]

theorem exec_add (rd rs : Reg) (s : State) :
    exec (.add rd rs) s = .next (s.writeAlu rd (aluFlags
      (BitVec.ofNat 8 ((s.readReg rd).toNat + (s.readReg rs).toNat))
      (decide (255 < (s.readReg rd).toNat + (s.readReg rs).toNat)))) := rfl

theorem exec_sub (rd rs : Reg) (s : State) :
    exec (.sub rd rs) s = .next (s.writeAlu rd (aluFlags (trunc8 (s.readReg rd - s.readReg rs))
      (decide ((s.readReg rd).toNat < (s.readReg rs).toNat)))) := rfl

/-- Settles O31: ADD's byte is the exact sum mod 256, and it overflows iff the sum exceeds 255. -/
theorem addWritesSumAndFlags : Obligations.AddWritesSumAndFlags := by
  refine ⟨fun d r => decode_layoutNumber (.add d r), ?_⟩
  rintro rd rs s sum _ rfl rfl
  exact ⟨_, exec_add rd rs s, writeAlu_aluFlags_spec s rd _ _ (BitVec.toNat_ofNat _ 8)⟩

/-- Settles O32: SUB's byte is the difference mod 256 (65536 is a multiple of 256), and it borrows iff the first operand
is the smaller. -/
theorem subWritesDifferenceAndFlags : Obligations.SubWritesDifferenceAndFlags := by
  refine ⟨fun d r => decode_layoutNumber (.sub d r), ?_⟩
  rintro rd rs s diff _ rfl rfl
  refine ⟨_, exec_sub rd rs s, writeAlu_aluFlags_spec s rd _ _ ?_⟩
  rw [trunc8_toNat, BitVec.toNat_sub]
  have := (s.readReg rs).isLt
  omega

/-! ### JZ and JNZ -/

theorem flagZ_eq_true_iff (s : State) : s.flagZ = true ↔ s.f.toNat % 2 = 1 := by
  rw [State.flagZ, BitVec.getLsbD, Nat.testBit_zero, decide_eq_true_iff]

theorem exec_jz (addr12 : BitVec 12) (s : State) :
    exec (.jz addr12) s = .next (if s.flagZ then s.writePC (absAddr addr12) else s) := rfl

theorem exec_jnz (addr12 : BitVec 12) (s : State) :
    exec (.jnz addr12) s = .next (if s.flagZ then s else s.writePC (absAddr addr12)) := rfl

/-- Settles O35: bit 0 of F picks between PC's two values. -/
theorem jzJumpsOnZero : Obligations.JzJumpsOnZero := by
  refine ⟨fun addr12 => decode_layoutNumber (.jz addr12), fun addr12 s => ⟨_, exec_jz addr12 s, ?_⟩⟩
  by_cases hz : s.flagZ = true
  · have hbit := (flagZ_eq_true_iff s).1 hz
    rw [if_pos hz]
    exact ⟨rfl, fun _ => absAddr_toNat addr12, by omega⟩
  · have hbit := mt (flagZ_eq_true_iff s).2 hz
    rw [if_neg hz]
    exact ⟨rfl, by omega, fun _ => rfl⟩

/-- Settles O36: bit 0 of F picks between PC's two values. -/
theorem jnzJumpsOnNonzero : Obligations.JnzJumpsOnNonzero := by
  refine ⟨fun addr12 => decode_layoutNumber (.jnz addr12), fun addr12 s => ⟨_, exec_jnz addr12 s, ?_⟩⟩
  by_cases hz : s.flagZ = true
  · have hbit := (flagZ_eq_true_iff s).1 hz
    rw [if_pos hz]
    exact ⟨rfl, by omega, fun _ => rfl⟩
  · have hbit := mt (flagZ_eq_true_iff s).2 hz
    rw [if_neg hz]
    exact ⟨rfl, fun _ => absAddr_toNat addr12, by omega⟩

/-! ### PUTC (46_system R121) -/

theorem exec_putc (r : Reg) (s : State) : exec (.putc r) s = .next (s.consoleAppend (trunc8 (s.readReg r))) := rfl

/-- Settles O29: PUTC is one append to the console. -/
theorem putcAppendsALowByte : Obligations.PutcAppendsALowByte := by
  refine ⟨fun r => decode_layoutNumber (.putc r), fun r s => ?_⟩
  rw [← trunc8_eq_ofNat]
  exact exec_putc r s

end Sys2Proof.Machine
end

section
/-! Proofs about the stack as a whole (43_stack, 20_memory R57, R58): POP, the two round trips, and where a push
stores. -/

namespace Sys2Proof.Machine

variable {s : State}

/-! ### POP (43_stack R111) -/

/-- The state after a POP that has a byte to pop: SP, then the register (decision D34). -/
def poppedState (r : Reg) (s : State) : State :=
  (s.writeSP (s.sp - 1)).writeReg r (zext16 (s.memByte (stackSlot s.sp)))

theorem exec_pop_of_byte (r : Reg) (hinv : s.Inv) (hsp : 1 ≤ s.sp.toNat) :
    exec (.pop r) s = .next (poppedState r s) := by
  have hplain := ownerOf_stackSlot_top hinv hsp
  have hsome : ¬ s.sp.toNat = 0 := by omega
  simp only [exec, execPop, pop8_eq, if_neg hsome, read8_plain s _ hplain, settle_ok, poppedState]

theorem exec_pop_underflow (r : Reg) (hempty : s.sp.toNat = 0) :
    exec (.pop r) s = .next (s.haltWith .stackUnderflow) := by
  simp only [exec, execPop, pop8_eq, if_pos hempty, settle_error]

theorem poppedState_sp (s : State) {r : Reg} (hr : r ≠ .sp) : (poppedState r s).sp = s.sp - 1 :=
  writeReg_sp _ r _ hr

theorem sameRegsBut_poppedState (r : Reg) (s : State) : SameRegsBut [r, .sp] s (poppedState r s) :=
  ((sameRegsBut_writeSP s _).mono (by simp)).trans ((sameRegsBut_writeReg _ r _).mono (by simp))

/-- Settles O41: with a byte in use, POP answers `poppedState`; with none the pop raises before any change. -/
theorem popLoadsAByte : Obligations.PopLoadsAByte := by
  refine ⟨fun r => decode_layoutNumber (.pop r), fun r s hinv hsp => ?_, fun r s => exec_pop_underflow r⟩
  have hbyte : s.memByte (stackSlot s.sp) = s.mem.read (256 - s.sp.toNat) := by rw [State.memByte, stackSlot_toNat]
  refine ⟨poppedState r s, exec_pop_of_byte r hinv hsp, ?_, fun hr => ?_, sameRegsBut_poppedState r s,
    onlyRegs_writeReg (s.writeSP (s.sp - 1)) r _, nextStepFetchFaults_writeReg_pc (s := s.writeSP (s.sp - 1)) _⟩
  · rw [poppedState, readReg_writeReg_byte, hbyte]
  · rw [poppedState_sp s hr]
    bv_omega

/-! ### The round trips -/

/-- Settles O42: the push leaves the register's byte in the slot that the pop reads, and SP goes up and down by one. -/
theorem popUndoesPush : Obligations.PopUndoesPush := by
  intro r r' s hinv hroom
  have hpush := exec_push_of_room r hinv hroom
  have hsp : 1 ≤ (pushedState r s).sp.toNat := by
    rw [pushedState, writeSP_sp, sp_add_one_toNat hroom]
    omega
  have hpop := exec_pop_of_byte r' (keptByUpdates_inv.keeps_exec hpush hinv) hsp
  refine ⟨_, _, hpush, hpop, ?_, fun hr => ?_, ?_⟩
  · rw [poppedState, readReg_writeReg_byte]
    exact congrArg _ (memByte_pushedState r hinv.mem_wf)
  · rw [poppedState_sp _ hr, pushedState, writeSP_sp]
    bv_omega
  · have hpushed : SameRegsBut [.sp] s (pushedState r s) := sameRegsBut_sp rfl rfl rfl rfl
    exact (hpushed.mono (by simp)).trans (sameRegsBut_poppedState r' _)

/-- Settles O39: the call leaves PC's two bytes in the slots that the return reads, and SP goes up and down by two. -/
theorem retUndoesCall : Obligations.RetUndoesCall := by
  intro addr12 s hinv hroom
  have hcall := exec_call_of_room addr12 hinv hroom
  have hsp : 2 ≤ (calledState addr12 s).sp.toNat := by
    rw [calledState, writePC_sp, writeSP_sp, sp_add_two_toNat hroom]
    omega
  have hret := exec_ret_of_word (keptByUpdates_inv.keeps_exec hcall hinv) hsp
  have hword : (calledState addr12 s).fetchWord (stackSlot (s.sp + 2)) = s.pc := by
    have hhigh : (calledState addr12 s).memByte (stackSlot (s.sp + 2)) = hiByte s.pc :=
      memByte_placeWord_high hinv.mem_wf _
    have hlow : (calledState addr12 s).memByte (stackSlot (s.sp + 2) + 1) = loByte s.pc :=
      memByte_placeWord_low hinv.mem_wf _
    rw [State.fetchWord, hhigh, hlow, wordOfBytes_hiByte_loByte]
  refine ⟨_, _, hcall, hret, sameRegsBut_of_fields [] rfl rfl ?_ hword rfl, rfl, rfl, rfl, rfl⟩
  rw [returnedState, writePC_sp, writeSP_sp, calledState, writePC_sp, writeSP_sp]
  bv_omega

/-! ### CALL and PUSH stay in the stack region -/

/-- Settles O43: with room, the bytes written are those of the new top slots, at addresses 1 to 255; without room
nothing is written. -/
theorem stackStaysInItsRegion : Obligations.StackStaysInItsRegion := by
  rintro i s t hinv (⟨addr12, rfl⟩ | ⟨r, rfl⟩) he a ha
  · rcases exec_call_cases hinv he with ⟨hroom, rfl⟩ | rfl
    · have hsp := sp_add_two_toNat hroom
      unfold Config.stackSize at hroom
      have hhi : a ≠ stackSlot (s.sp + 2) := by rintro rfl; rw [stackSlot_toNat] at ha; omega
      have hlo : a ≠ stackSlot (s.sp + 2) + 1 := by rintro rfl; rw [stackSlot_succ_toNat] at ha; omega
      exact sameMemBut_placeWord (s := s) _ a (List.not_mem_cons_of_ne_of_not_mem hhi (by rwa [List.mem_singleton]))
    · rfl
  · rcases exec_push_cases hinv he with ⟨hroom, rfl⟩ | rfl
    · have hsp := sp_add_one_toNat hroom
      unfold Config.stackSize at hroom
      have hslot : a ≠ stackSlot (s.sp + 1) := by rintro rfl; rw [stackSlot_toNat] at ha; omega
      exact sameMemBut_setMemByte (s := s) _ _ a (by rwa [List.mem_singleton])
    · rfl

end Sys2Proof.Machine
end

section
/-! Proofs about LD and ST through the region router (44_load_store, 20_memory R41 to R47), the keyboard, the frame
buffer, and a store into the code region. -/

namespace Sys2Proof.Machine

variable {s t : State} {a : Word} {addr12 : BitVec 12}

/-! ### Plain addresses (20_memory R38) -/

/-- Settles O45: constraint 3 keeps every region off the stack and off the code. -/
theorem stackAndCodeArePlain : Obligations.StackAndCodeArePlain := by
  intro p a hok ha
  obtain ⟨-, -, hstack, hcode⟩ := (regionMapOk_iff p).1 hok
  rcases ha with ha | ⟨hlo, hhi⟩
  · exact owner_eq_none_of_apartFrom hstack (Nat.zero_le _) (by simpa [Config.stackBase] using ha)
  · exact owner_eq_none_of_apartFrom hcode hlo hhi

theorem State.Inv.regionMapOk (hinv : s.Inv) : s.params.regionMapOk = true := by
  have hwf := hinv.params_wf
  simp only [Params.wf, Bool.and_eq_true, and_assoc] at hwf
  exact hwf.1

theorem State.Inv.programFits (hinv : s.Inv) : s.params.progEnd ≤ Config.progEndMax := by
  have hwf := hinv.params_wf
  simp only [Params.wf, Bool.and_eq_true, and_assoc] at hwf
  exact of_decide_eq_true hwf.2.1

/-! ### What the router does for each owner -/

theorem read8_array (h : s.ownerOf a ≠ some .rng) (h' : s.ownerOf a ≠ some .keyboard) :
    s.read8 a = (s.memByte a, s) := by
  unfold State.read8
  split <;> simp_all

theorem read8_rng (h : s.ownerOf a = some .rng) :
    s.read8 a = (Config.rngByte s.rngSeed s.rngDraws, { s with rngDraws := s.rngDraws + 1 }) := by
  simp [State.read8, h]

theorem read8_keyboard (h : s.ownerOf a = some .keyboard) : s.read8 a = (s.latch a, s) := by
  simp [State.read8, h]

theorem write8_array (v : Byte)
    (h : s.ownerOf a = none ∨ s.ownerOf a = some .frameBuffer ∨ s.ownerOf a = some .storage) :
    s.write8 a v = s.setMemByte a v := by
  rcases h with h | h | h <;> simp [State.write8, h]

theorem write8_console (v : Byte) (h : s.ownerOf a = some .console) :
    s.write8 a v = (s.setMemByte a v).consoleAppend v := by
  simp [State.write8, h]

theorem write8_rng (v : Byte) (h : s.ownerOf a = some .rng) : s.write8 a v = s := by
  simp [State.write8, h]

theorem write8_keyboard (v : Byte) (h : s.ownerOf a = some .keyboard) : s.write8 a v = s.setLatch a v := by
  simp [State.write8, h]

/-- A store to an address that is no device's register leaves the byte in the array. -/
theorem memByte_write8 (hwf : s.mem.wf = true) (v : Byte) (h : s.ownerOf a ≠ some .rng)
    (h' : s.ownerOf a ≠ some .keyboard) : (s.write8 a v).memByte a = v := by
  have hset : (s.setMemByte a v).memByte a = v := memByte_setMemByte_same hwf a v
  cases howner : s.ownerOf a with
  | none => rwa [write8_plain s a v howner]
  | some kind =>
    cases kind with
    | frameBuffer => rwa [write8_array v (.inr (.inl howner))]
    | storage => rwa [write8_array v (.inr (.inr howner))]
    | console => rwa [write8_console v howner]
    | rng => exact absurd howner h
    | keyboard => exact absurd howner h'

theorem latch_setLatch_same (hwf : s.keyLatch.wf = true) (a : Word) (v : Byte) : (s.setLatch a v).latch a = v :=
  read_write_same_wf _ _ _ hwf

theorem latch_setLatch_other {b : Word} (h : b ≠ a) (v : Byte) : (s.setLatch a v).latch b = s.latch b :=
  read_write_other _ _ _ _ fun heq => h (BitVec.eq_of_toNat_eq heq)

/-! ### LD -/

theorem absAddr_eq (h : a.toNat = addr12.toNat) : absAddr addr12 = a :=
  BitVec.eq_of_toNat_eq ((absAddr_toNat addr12).trans h.symm)

theorem exec_ld (addr12 : BitVec 12) (s : State) :
    exec (.ld addr12) s =
      .next ((s.read8 (absAddr addr12)).2.writeReg (.gpr 0) (zext16 (s.read8 (absAddr addr12)).1)) := rfl

theorem readReg_writeReg_gpr_byte (s : State) (n : Fin 8) (v : Byte) :
    (s.writeReg (.gpr n) (zext16 v)).readReg (.gpr n) = zext16 v := by
  rw [readReg_writeReg_gpr, trunc8_zext16]

/-- Settles O46: a case per kind of owner for the byte and the draws, and one frame for all. -/
theorem ldLoadsThroughTheRouter : Obligations.LdLoadsThroughTheRouter := by
  refine ⟨fun addr12 => decode_layoutNumber (.ld addr12), fun addr12 s a ha => ⟨_, exec_ld addr12 s, ?_⟩⟩
  rw [absAddr_eq ha, readReg_writeReg_gpr_byte]
  have hregs := (sameRegsBut_read8 [.gpr 0] s a).trans
    (sameRegsBut_writeReg (s.read8 a).2 (.gpr 0) (zext16 (s.read8 a).1))
  refine ⟨fun hrng hkey => ?_, fun hrng => ?_, fun hkey => ?_, hregs, ?_, ?_, ?_, ?_, ?_⟩
  · rw [read8_array hrng hkey]
    exact ⟨rfl, rfl, rfl⟩
  · rw [read8_rng hrng]
    exact ⟨rfl, rfl, rfl⟩
  · rw [read8_keyboard hkey]
    exact ⟨rfl, rfl, rfl⟩
  · simp [SameMem, State.memByte]
  · simp [SameMailboxes, State.mbRead]
  · simp [SameLatch, State.latch]
  · simp [SameConsole]
  · simp [SameControl]

/-! ### ST -/

theorem exec_st (addr12 : BitVec 12) (s : State) :
    exec (.st addr12) s = .next (s.write8 (absAddr addr12) (trunc8 (s.readReg (.gpr 0)))) := rfl

theorem fetchWord_setMemByte (hwf : s.mem.wf = true) (a p : Word) (v : Byte) :
    (s.setMemByte a v).fetchWord p =
      wordOfBytes (if p = a then v else s.memByte p) (if p + 1 = a then v else s.memByte (p + 1)) := by
  have hbyte : ∀ b : Word, (s.setMemByte a v).memByte b = if b = a then v else s.memByte b := fun b => by
    split
    next h => rw [h, memByte_setMemByte_same hwf]
    next h => exact sameMemBut_setMemByte a v b (by rwa [List.mem_singleton])
  rw [State.fetchWord, hbyte, hbyte]

/-- Settles O47: the frame that all owners share, and a case per kind of owner. -/
theorem stStoresThroughTheRouter : Obligations.StStoresThroughTheRouter := by
  refine ⟨fun addr12 => decode_layoutNumber (.st addr12), fun addr12 s a v hinv ha hv => ?_⟩
  have hexec := exec_st addr12 s
  rw [absAddr_eq ha, trunc8_eq_ofNat, ← hv] at hexec
  have hset := memByte_setMemByte_same hinv.mem_wf a v
  have hframe := sameMemBut_setMemByte (s := s) a v
  refine ⟨_, hexec, sameRegsBut_write8 [] s a v, ?_, ?_, ?_, fun howner => ?_, fun howner => ?_, fun howner => ?_,
    fun howner => ?_, fun howner p => ?_⟩
  · simp [SameMailboxes, State.mbRead]
  · simp [SameRng]
  · simp [SameControl]
  · rw [write8_array v howner]
    exact ⟨hset, hframe, rfl, fun _ => rfl⟩
  · rw [write8_console v howner]
    exact ⟨hset, hframe, rfl, fun _ => rfl⟩
  · exact write8_rng v howner
  · rw [write8_keyboard v howner]
    exact ⟨latch_setLatch_same hinv.latch_wf a v, fun b hb => latch_setLatch_other hb v, fun _ => rfl, rfl⟩
  · rw [write8_plain s a v howner]
    exact fetchWord_setMemByte hinv.mem_wf a p v

/-! ### LD after ST -/

/-- What a store leaves for a load: no register or parameter stands between the router and the byte. -/
theorem read8_write8 (hinv : s.Inv) (v x : Byte) (hrng : s.ownerOf a ≠ some .rng) :
    ((s.write8 a v).writeReg (.gpr 0) (zext16 x)).read8 a = (v, (s.write8 a v).writeReg (.gpr 0) (zext16 x)) := by
  have howner : ((s.write8 a v).writeReg (.gpr 0) (zext16 x)).ownerOf a = s.ownerOf a := by simp [State.ownerOf]
  by_cases hkey : s.ownerOf a = some .keyboard
  · rw [read8_keyboard (howner.trans hkey), write8_keyboard v hkey]
    exact congrArg (·, _) (latch_setLatch_same hinv.latch_wf a v)
  · rw [read8_array (by rwa [howner]) (by rwa [howner])]
    exact congrArg (·, _) (memByte_write8 hinv.mem_wf v hrng hkey)

/-- Settles O48: the load finds the stored byte, whatever R0 holds by then. -/
theorem ldReadsBackWhatStStored : Obligations.LdReadsBackWhatStStored := by
  intro addr12 s hinv hrng
  refine ⟨_, exec_st addr12 s, fun x => ?_⟩
  have hload := exec_ld addr12
    ((s.write8 (absAddr addr12) (trunc8 (s.readReg (.gpr 0)))).writeReg (.gpr 0) (zext16 x))
  rw [read8_write8 hinv _ x hrng] at hload
  refine ⟨_, hload, ?_, ?_⟩
  · exact ((sameRegsBut_write8 _ s _ _).trans (sameRegsBut_writeReg _ _ _)).trans (sameRegsBut_writeReg _ _ _)
  · rw [readReg_writeReg_gpr_byte, trunc8_eq_ofNat]

/-! ### A store over the next word (20_memory R68) -/

/-- Settles O49: the code region is plain, so the store changes the array, and the next step fetches the changed
word. -/
theorem selfModifiedWordRunsAtOnce : Obligations.SelfModifiedWordRunsAtOnce := by
  intro addr12 s v i hinv hrun hlow hwhole haddr hv hdec
  have hfits := hinv.programFits
  have hnext : (s.pc + 1).toNat = s.pc.toNat + 1 := by
    unfold Config.progEndMax at hfits
    bv_omega
  have hplain : s.ownerOf (s.pc + 1) = none :=
    stackAndCodeArePlain s.params _ hinv.regionMapOk (.inr ⟨by omega, by omega⟩)
  have hexec := exec_st addr12 s
  rw [absAddr_eq (hnext.trans haddr.symm), trunc8_eq_ofNat, ← hv, write8_plain s _ v hplain] at hexec
  have hword := fetchWord_setMemByte hinv.mem_wf (s.pc + 1) s.pc v
  have hne : s.pc ≠ s.pc + 1 := by bv_omega
  rw [if_neg hne, if_pos rfl] at hword
  exact ⟨_, hexec, step_of_decodes ⟨hrun, hlow, hwhole, hfits, hword.symm⟩ hdec⟩

/-! ### The frame buffer (20_memory R43) -/

theorem pixel_eq_bit (t : State) (fb : Region) {k y j : Nat} (hj : j < 8) :
    t.pixel fb (8 * k + j) y = (t.mem.read (fb.start + y * t.params.fbBytesPerRow + k)).getLsbD (7 - j) := by
  have hdiv : (8 * k + j) / 8 = k := by omega
  have hmod : (8 * k + j) % 8 = j := by omega
  rw [State.pixel, hdiv, hmod]

theorem getLsbD_trunc8 (v : Word) {n : Nat} (hn : n < 8) : (trunc8 v).getLsbD n = v.getLsbD n := by
  simp [trunc8, hn]

theorem exec_st_frameBuffer (hinv : s.Inv) (howner : s.ownerOf (absAddr addr12) = some .frameBuffer) :
    ∃ t, exec (.st addr12) s = .next t ∧ t.params = s.params ∧
      t.mem.read addr12.toNat = trunc8 (s.readReg (.gpr 0)) := by
  have hexec := exec_st addr12 s
  rw [write8_array _ (.inr (.inl howner))] at hexec
  refine ⟨_, hexec, rfl, ?_⟩
  rw [← absAddr_toNat addr12]
  exact memByte_setMemByte_same hinv.mem_wf (absAddr addr12) _

/-- Settles O50: the region owns the byte, so the store leaves it in the array, where pixel `8 k + j` of its row is bit
`7 - j` of it. -/
theorem frameBufferStoreSetsItsPixels : Obligations.FrameBufferStoreSetsItsPixels := by
  intro addr12 s fb k y hinv hfb hkind _ haddr hstop
  have hcov : regionCovers fb (absAddr addr12) = true := by
    rw [regionCovers_iff, absAddr_toNat]
    omega
  obtain ⟨-, hapart, -, -⟩ := (regionMapOk_iff _).1 hinv.regionMapOk
  have howner : s.ownerOf (absAddr addr12) = some .frameBuffer :=
    (owner_eq_kind_of_covers hapart hfb hcov).trans (congrArg some hkind)
  obtain ⟨t, hexec, hparams, hbyte⟩ := exec_st_frameBuffer hinv howner
  have hpixel : ∀ j, j < 8 → t.pixel fb (8 * k + j) y = (s.readReg (.gpr 0)).getLsbD (7 - j) := fun j hj => by
    rw [pixel_eq_bit t fb hj, hparams, ← haddr, hbyte, getLsbD_trunc8 _ (by omega)]
  refine ⟨t, hexec, hpixel, ?_⟩
  rintro rfl rfl hv
  have hbits : ∀ x, x < 8 → (0x0080#16).getLsbD (7 - x) = decide (x = 0) := by decide
  have hrow : ∀ x, x < 8 → t.pixel fb x 0 = decide (x = 0) := fun x hx => by
    simpa [hv, hbits x hx] using hpixel x hx
  exact ⟨hrow 0 (by decide), fun x hpos hx => (hrow x (by omega)).trans (decide_eq_false (by omega))⟩

/-! ### The keyboard (20_memory R47, 60_exceptions R135) -/

/-- Settles O51: the host's write is one write of a latch, which LD reads back through the router. -/
theorem hostKeyReachesTheProgram : Obligations.HostKeyReachesTheProgram := by
  intro addr12 s v hinv
  refine ⟨fun hkey => ?_, fun hkey => if_neg hkey⟩
  have hhost : s.hostKey (absAddr addr12) v = s.setLatch (absAddr addr12) v := if_pos hkey
  have hkey' : (s.setLatch (absAddr addr12) v).ownerOf (absAddr addr12) = some .keyboard := hkey
  rw [hhost]
  refine ⟨⟨_, rfl⟩, fun b hb => latch_setLatch_other hb v, _, exec_ld addr12 _, ?_⟩
  rw [readReg_writeReg_gpr_byte, read8_keyboard hkey', latch_setLatch_same hinv.latch_wf]

end Sys2Proof.Machine
end

section
/-! Proofs about GLD and GST (45_global R115, R118, R119): the translator's two checks in their order, and the byte of
the mailbox that it answers. -/

namespace Sys2Proof.Machine

variable {s : State} {ra : Reg} {m : Byte}

/-! ### The translator, check by check -/

theorem mailboxTarget_of_exists (hm : m = targetMailbox s.role (s.readReg ra)) (hid : m.toNat < s.params.numAgents)
    (hoff : s.i.toNat < s.params.mailboxSize) : s.mailboxTarget ra = .ok (m, s.i) := by
  rw [mailboxTarget_eq, ← hm, if_neg (Nat.not_le.2 hid), if_neg (Nat.not_le.2 hoff)]

theorem mailboxTarget_of_no_mailbox (hm : m = targetMailbox s.role (s.readReg ra))
    (hid : s.params.numAgents ≤ m.toNat) :
    s.mailboxTarget ra = .error (.addressFault (.mailbox m)) := by
  rw [mailboxTarget_eq, ← hm, if_pos hid]

theorem mailboxTarget_of_no_offset (hm : m = targetMailbox s.role (s.readReg ra)) (hid : m.toNat < s.params.numAgents)
    (hoff : s.params.mailboxSize ≤ s.i.toNat) : s.mailboxTarget ra = .error (.addressFault (.mailboxOffset s.i)) := by
  rw [mailboxTarget_eq, ← hm, if_neg (Nat.not_le.2 hid), if_pos hoff]

/-! ### The mailbox store -/

theorem mbRead_mbWrite_same (hwf : s.mailboxes.wf = true) (m : Byte) (o : Word) (v : Byte) :
    (s.mbWrite m o v).mbRead m o = v :=
  read_write_same_wf _ _ _ hwf

theorem mbRead_mbWrite_other {m' : Byte} {o o' : Word} (h : (m', o') ≠ (m, o)) (v : Byte) :
    (s.mbWrite m o v).mbRead m' o' = s.mbRead m' o' := by
  refine read_write_other _ _ _ _ fun hkey => h ?_
  obtain ⟨hm, ho⟩ := mailboxKey_inj _ _ _ _ hkey
  rw [hm, ho]

/-! ### GLD and GST -/

/-- Settles O52: a case per answer of the translator; what it lets through is one byte written by the W port. -/
theorem gldLoadsFromItsMailbox : Obligations.GldLoadsFromItsMailbox := by
  refine ⟨fun v a => decode_layoutNumber (.gld v a), fun rv ra s m hm => ⟨fun hid hoff => ?_, fun hid => ?_,
    fun hid hoff => ?_⟩⟩
  · exact ⟨_, exec_gld_of_target (mailboxTarget_of_exists hm hid hoff), readReg_writeReg_byte s rv _,
      sameRegsBut_writeReg s rv _, onlyRegs_writeReg s rv _, nextStepFetchFaults_writeReg_pc _⟩
  · exact exec_gld_of_fault (mailboxTarget_of_no_mailbox hm hid)
  · exact exec_gld_of_fault (mailboxTarget_of_no_offset hm hid hoff)

/-- Settles O53: a case per answer of the translator; what it lets through is one write to the mailbox store. -/
theorem gstStoresToItsMailbox : Obligations.GstStoresToItsMailbox := by
  refine ⟨fun v a => decode_layoutNumber (.gst v a), fun rv ra s m hm => ⟨fun hinv hid hoff => ?_, fun hid => ?_,
    fun hid hoff => ?_⟩⟩
  · refine ⟨_, exec_gst_of_target (mailboxTarget_of_exists hm hid hoff), ?_, fun m' o' h => mbRead_mbWrite_other h _,
      sameRegsBut_of_fields [] rfl rfl rfl rfl rfl, fun _ => rfl, fun _ => rfl, ⟨rfl, rfl⟩, rfl, rfl, rfl, rfl, rfl⟩
    rw [mbRead_mbWrite_same hinv.mailboxes_wf, trunc8_eq_ofNat]
  · exact exec_gst_of_fault (mailboxTarget_of_no_mailbox hm hid)
  · exact exec_gst_of_fault (mailboxTarget_of_no_offset hm hid hoff)

/-- Settles O55: the arbiter's operand and the agent's role name one mailbox, and the agent reads the byte there that
the arbiter's store left. -/
theorem mailboxCarriesAByteBetweenInstances : Obligations.MailboxCarriesAByteBetweenInstances := by
  intro arbiter agent m rv ra rw rx hinv harbiter hagent hoperand hi hagents hsize hid hoff
  have hm : m = targetMailbox arbiter.role (arbiter.readReg ra) := by
    rw [harbiter, targetMailbox, ← trunc8_eq_ofNat]
    exact BitVec.eq_of_toNat_eq (by rw [trunc8_toNat, hoperand])
  have hgst := exec_gst_of_target (rv := rv) (mailboxTarget_of_exists hm (hagents ▸ hid) (by rwa [hi, hsize]))
  have hm' : ∀ store, m = targetMailbox ({ agent with mailboxes := store } : State).role
      (({ agent with mailboxes := store } : State).readReg rx) := fun _ => (targetMailbox_agent hagent _).symm
  refine ⟨_, _, hgst, exec_gld_of_target (mailboxTarget_of_exists (hm' _) hid hoff), ?_⟩
  rw [readReg_writeReg_byte, ← trunc8_eq_ofNat, ← hi]
  exact congrArg _ (mbRead_mbWrite_same hinv.mailboxes_wf m arbiter.i _)

end Sys2Proof.Machine
end
